-- ==== Sys2Proof/Word.lean ====
section
/-! DEFINITION. The words of the block: 32-bit bus data, 26-bit byte offsets, bytes, the 16-bit halves of a sample or a
frame check sequence, and bit sequences in transmission order (00_scope.md R8, R9). -/

namespace Sys2Proof

/-- A 32-bit bus word or register (20_memory.md R110, 10_state.md R32). -/
abbrev Word := BitVec 32

/-- A byte of frame RAM, and one byte lane of any RAM word. -/
abbrev Byte := BitVec 8

/-- A stored sample (20_memory.md R104) or a frame check sequence (42_destuff_crc.md R311). -/
abbrev Half := BitVec 16

/-- A 26-bit byte offset from the block's base (20_memory.md R100). -/
abbrev Addr := BitVec 26

/-- A bit sequence, index 0 first in time (00_scope.md R9). -/
abbrev Bits := List Bool

end Sys2Proof
end

