-- ==== Sys2Proof/Config.lean ====
section
/-! DEFINITION. What the spec fixes once for every machine (00_scope.md R5), the reference value of its one open
parameter, and the values it leaves open (93_implementation_defined.md U1 to U4), which have no body. -/

namespace Sys2Proof.Config

/-- The reference value 2^22 of SAMPLE_CAP (00_scope.md R5), as a number of 32-sample units less one: SAMPLE_CAP is a
multiple of 32 from 32 to 2^22. DESIGN CHOICE (log 6), unsafe only for a claim about the one state `State.reset`. -/
def referenceCapUnits : Fin 131072 := 131071

/-- UNIT_DIV: `unit = SR div 1000` (40_demodulator.md R201). -/
def unitDiv : Nat := 1000

/-- BAUD: the FSK data rate of the run-to-bit conversion (40_demodulator.md R210). -/
def baud : Nat := 300

/-- The least sample rate a job accepts (43_commands.md R357). -/
def minSampleRate : Nat := 1000

/-- MIN_CAND_BITS (41_frame_extractor.md R254). -/
def minCandBits : Nat := 8

/-- MIN_FRAME_BYTES (42_destuff_crc.md R307). -/
def minFrameBytes : Nat := 5

/-- ADDR_BYTE (42_destuff_crc.md R307). -/
def addrByte : Byte := 0xFF#8

/-- The only supported access size, in bytes (20_memory.md R110). -/
def accessSize : Nat := 4

/-- The value of the ID register (10_state.md R33). -/
def idValue : Word := 0x46534B44#32

/-- The value of the VERSION register (10_state.md R34). -/
def versionValue : Word := 1#32

/-- THRESH after reset (10_state.md R41). -/
def threshReset : BitVec 22 := 1073741#22

/-- The offset of CMD (10_state.md R37), which the decoder names. -/
def cmdOffset : Addr := 0x014#26

/-- FREE VALUE (log 7, safe): the byte at an offset of a RAM that nothing has written since draw number `epoch`
(20_memory.md R109, 93_implementation_defined.md U1). -/
opaque ramDraw (epoch offset : Nat) : Byte

/-- FREE VALUE (log 8, safe): what the register at `offset` holds after an ABORT that was draw number `n`
(43_commands.md R355, 93_implementation_defined.md U3). -/
opaque registerDraw (n offset : Nat) : Word

/-- FREE VALUE (log 8, safe): the data of a read that was draw number `n`, of a location the running job writes
(20_memory.md R118, 93_implementation_defined.md U2). -/
opaque readDraw (n : Nat) : Word

end Sys2Proof.Config
end

