-- ==== Sys2Proof/Syntax.lean ====
section
/-! DEFINITION. What a host issues: bus transactions (30_encoding.md R150), command words (R151, R152), and the
instructions they stand for, one constructor per row of the opcode table. -/

namespace Sys2Proof

/-- A host bus transaction as the block receives it (30_encoding.md R150). RDATA and RESP are the block's answer and stand
in the machine's state. SIZE is a number of bytes; the spec gives it no width (log 16). -/
structure BusTransaction where
  /-- WE: true for `MemWrite`, false for `MemRead`. -/
  we : Bool
  /-- SIZE in bytes; only 4 is supported. -/
  size : Nat
  /-- ADDR: the byte offset. -/
  addr : Addr
  /-- WDATA: the value written (writes only). -/
  wdata : Word
deriving DecidableEq, Repr

/-- The five commands of 30_encoding.md R152. -/
inductive Command where
  | nop | run | demod | frame | abort
deriving DecidableEq, Repr

/-- Why a word written to CMD is no command: both are answered by ILLEGAL_CMD (60_exceptions.md R401). -/
inductive CommandRefusal where
  /-- a bit of [31:4] is set (30_encoding.md R154) -/
  | reservedBits
  /-- OPC is 0x5 to 0xF (30_encoding.md R153) -/
  | reservedOpcode
deriving DecidableEq, Repr

/-- The instructions: one constructor per row of spec/opcode_table.json. A command is the host write of its word to CMD. -/
inductive Instr where
  /-- NOP (43_commands.md R351) -/
  | nop
  /-- RUN (43_commands.md R352) -/
  | run
  /-- DEMOD (43_commands.md R353) -/
  | demod
  /-- FRAME (43_commands.md R354) -/
  | frame
  /-- ABORT (43_commands.md R355) -/
  | abort
  /-- BUS_READ32 (43_commands.md R359), with the SIZE the transaction carries -/
  | busRead32 (size : Nat) (addr : Addr)
  /-- BUS_WRITE32 (43_commands.md R360), with the SIZE the transaction carries -/
  | busWrite32 (size : Nat) (addr : Addr) (wdata : Word)
deriving DecidableEq, Repr

end Sys2Proof
end

