-- ==== Sys2Proof/WellFormed.lean ====
section
/-! DEFINITION. Which terms of `Instr` are written out as a transaction record in exactly one way. -/

namespace Sys2Proof

/-- SIZE fits the seven bits a transaction record has for it (log 1, log 16). -/
def sizeFits (size : Nat) : Bool := decide (size < 128)

/-- A full-width write of one of the words 0 to 4 to CMD: the command rows of the opcode table decode it ("a write to CMD
is decoded by the CMD rows"), so it is never a BUS_WRITE32 (30_encoding.md R152). -/
def isCommandWrite (size : Nat) (addr : Addr) (wdata : Word) : Bool :=
  decide (size = Config.accessSize) && decide (addr = Config.cmdOffset) && decide (wdata.toNat < 5)

/-- The well-formed instructions: those that some transaction record encodes. -/
def Instr.wellFormed : Instr → Bool
  | .nop => true
  | .run => true
  | .demod => true
  | .frame => true
  | .abort => true
  | .busRead32 size _ => sizeFits size
  | .busWrite32 size addr wdata => sizeFits size && !isCommandWrite size addr wdata

end Sys2Proof
end

