-- ==== Sys2Proof/Decode.lean ====
section
/-! DEFINITION. The decoder, total on every transaction and on every record of bits, and the encoder. A command word that
is no command is rejected by name (`CommandRefusal`); no transaction is rejected, since the spec answers each one
(30_encoding.md R165). The places of the fields in a transaction record are the model's own (log 1). -/

namespace Sys2Proof

/-- The command a word written to CMD carries (30_encoding.md R151 to R154): [31:4] must be 0, [3:0] is OPC. -/
def decodeCommand (v : Word) : Except CommandRefusal Command :=
  if v >>> 4 ≠ 0#32 then .error .reservedBits
  else
    match (v.extractLsb' 0 4).toNat with
    | 0 => .ok .nop
    | 1 => .ok .run
    | 2 => .ok .demod
    | 3 => .ok .frame
    | 4 => .ok .abort
    | _ => .error .reservedOpcode

/-- The word of a command (30_encoding.md R152). -/
def Command.word : Command → Word
  | .nop => 0x00000000#32
  | .run => 0x00000001#32
  | .demod => 0x00000002#32
  | .frame => 0x00000003#32
  | .abort => 0x00000004#32

/-- The row of the opcode table a command is. -/
def Command.instr : Command → Instr
  | .nop => .nop
  | .run => .run
  | .demod => .demod
  | .frame => .frame
  | .abort => .abort

/-- A full-width host write of `v` to CMD. -/
def commandWrite (v : Word) : BusTransaction :=
  { we := true, size := Config.accessSize, addr := Config.cmdOffset, wdata := v }

/-- What a write transaction is: a command row where it delivers a command word to CMD, a BUS_WRITE32 otherwise
(opcode table, 43_commands.md R360). A word that is no command stays a BUS_WRITE32, whose meaning raises ILLEGAL_CMD. -/
def decodeWrite (size : Nat) (addr : Addr) (wdata : Word) : Instr :=
  if size = Config.accessSize ∧ addr = Config.cmdOffset then
    match decodeCommand wdata with
    | .ok c => c.instr
    | .error _ => .busWrite32 size addr wdata
  else .busWrite32 size addr wdata

/-- The instruction a transaction is: WE tells a read from a write (30_encoding.md R150). A read carries no WDATA. -/
def decode (t : BusTransaction) : Instr :=
  if t.we then decodeWrite t.size t.addr t.wdata else .busRead32 t.size t.addr

/-- The transaction an instruction is. -/
def encode : Instr → BusTransaction
  | .nop => commandWrite Command.nop.word
  | .run => commandWrite Command.run.word
  | .demod => commandWrite Command.demod.word
  | .frame => commandWrite Command.frame.word
  | .abort => commandWrite Command.abort.word
  | .busRead32 size addr => { we := false, size := size, addr := addr, wdata := 0#32 }
  | .busWrite32 size addr wdata => { we := true, size := size, addr := addr, wdata := wdata }

/-- A transaction as a record of 66 bits: [0] WE (as the opcode table has it), [7:1] SIZE exclusive-or 4, [33:8] ADDR,
[65:34] WDATA. DESIGN CHOICE (log 1), safe: the spec names the fields and gives them no places. With the exclusive-or, a
record whose SIZE bits are zero is the table row's own SIZE = 4. -/
def BusTransaction.toBits (t : BusTransaction) : BitVec 66 :=
  t.wdata ++ t.addr ++ (BitVec.ofNat 7 t.size ^^^ 4#7) ++ BitVec.ofBool t.we

/-- The transaction a record of 66 bits is. -/
def BusTransaction.ofBits (b : BitVec 66) : BusTransaction :=
  { we := b.getLsbD 0
    size := (b.extractLsb' 1 7 ^^^ 4#7).toNat
    addr := b.extractLsb' 8 26
    wdata := b.extractLsb' 34 32 }

/-- The instruction a transaction record is. -/
def decodeBits (b : BitVec 66) : Instr := decode (BusTransaction.ofBits b)

/-- The transaction record of an instruction. -/
def encodeBits (i : Instr) : BitVec 66 := (encode i).toBits

/-- The transaction of a word of the opcode table: a row of 32 bits is a command word, written to CMD (format CMD); a
shorter row is the low bits of a transaction record (format BUS), every bit above them 0 (log 2). -/
def tableTransaction (nbits w : Nat) : BusTransaction :=
  if nbits = 32 then commandWrite (BitVec.ofNat 32 w)
  else BusTransaction.ofBits (BitVec.ofNat 66 (w % 2 ^ nbits))

/-- The instruction the decoder reads from a word of the opcode table. -/
def decodeTableWord (nbits w : Nat) : Option Instr := some (decode (tableTransaction nbits w))

end Sys2Proof
end

