-- ==== Sys2Proof/Machine/State.lean ====
section
/-! DEFINITION. The state of the block as plain data, the reasons a step can stop, and the state right after reset. -/

namespace Sys2Proof.Machine

/-- The kinds of job (10_state.md R56). -/
inductive Job where
  | run | demod | frame
deriving DecidableEq, Repr

/-- EngineState (10_state.md R56). STATUS.BUSY is 1 exactly when it is `busy`, so BUSY is stored here and only here. -/
inductive EngineState where
  | idle
  | busy (job : Job)
deriving DecidableEq, Repr

/-- The four RAMs (20_memory.md R101). -/
inductive Ram where
  | sample | bit | frame | desc
deriving DecidableEq, Repr

/-- The implemented registers (10_state.md R32). -/
inductive Reg where
  | id | version | cap | ctrl | cmd | status | sr | thresh | nsamp | bitcount
  | ncand | naccept | ncrcOk | nrejShort | nrejInact | ndropLen | ndropAddr | nframeBytes | tailbits
deriving DecidableEq, Repr

/-- What a backed offset names (20_memory.md R102): a register, or the RAM word at that offset. -/
inductive Location where
  | reg (r : Reg)
  | ram (m : Ram) (offset : Nat)
deriving DecidableEq, Repr

/-- The command errors (60_exceptions.md R401). -/
inductive ErrorCode where
  | illegalCmd | busy | badSr | badNsamp | badBitcount
deriving DecidableEq, Repr

/-- CLASS of a descriptor (30_encoding.md R161). -/
inductive CandidateClass where
  | accept | rejShort | rejInactive | dropLen | dropAddr
deriving DecidableEq, Repr

/-- A descriptor's fields (30_encoding.md R160); positions and lengths are counts. -/
structure Descriptor where
  cls : CandidateClass
  crcOk : Bool
  resid : Nat
  candStart : Nat
  candLen : Nat
  dstufLen : Nat
  byteOff : Nat
  nbytes : Nat
  crcCalc : Half
  crcRx : Half
deriving DecidableEq, Repr

/-- The fields of STATUS that are stored (10_state.md R38); BUSY is `EngineState`, reserved bits read 0. -/
structure Status where
  /-- [1] DONE -/
  done : Bool
  /-- [2] ERR -/
  err : Bool
  /-- [3] ABORTED -/
  aborted : Bool
  /-- [4] WERR -/
  werr : Bool
  /-- [11:8] ERRCODE -/
  errcode : BitVec 4
deriving DecidableEq, Repr

/-- The nine result counters (10_state.md R44 to R52). -/
structure Counters where
  ncand : Word
  naccept : Word
  ncrcOk : Word
  nrejShort : Word
  nrejInact : Word
  ndropLen : Word
  ndropAddr : Word
  nframeBytes : Word
  tailbits : Word
deriving DecidableEq, Repr

/-- THE MODEL'S OWN (log 8): which draw the unwritten words of each RAM hold, and the number of the next fresh draw. -/
structure DrawEpochs where
  sample : Nat
  bit : Nat
  frame : Nat
  desc : Nat
  next : Nat
deriving DecidableEq, Repr

/-- What can happen next (20_memory.md R116, 60_exceptions.md R406, 70_reset_and_hazards.md R450). -/
inductive Event where
  /-- the host issues a transaction -/
  | host (t : BusTransaction)
  /-- the engine takes its completion step, if it has one -/
  | engine
  /-- the reset input acts -/
  | reset
deriving DecidableEq, Repr

/-- The four RAMs as one list of (byte offset, byte), offsets strictly rising. A listed byte has been written since its
RAM last became a draw; an unlisted byte is a draw (20_memory.md R109, log 7), so no entry equals what an unlisted offset
reads as: an unlisted offset holds no stored byte at all. -/
abbrev Memory := List Host.Cell

/-- The state of the machine. The spec's own state first, then the two fields the model adds (`epochs`, `schedule`). -/
structure State where
  /-- SAMPLE_CAP / 32 - 1 (00_scope.md R5): every legal SAMPLE_CAP and no other. No step changes it (log 6). -/
  capUnits : Fin 131072
  /-- EngineState (10_state.md R56) -/
  engine : EngineState
  /-- CTRL.IRQ_EN (10_state.md R36) -/
  irqEn : Bool
  /-- STATUS (10_state.md R38) -/
  status : Status
  /-- SR (10_state.md R40) -/
  sr : BitVec 18
  /-- THRESH (10_state.md R41) -/
  thresh : BitVec 22
  /-- NSAMP (10_state.md R42) -/
  nsamp : BitVec 23
  /-- BITCOUNT (10_state.md R43) -/
  bitcount : BitVec 23
  /-- NCAND to TAILBITS (10_state.md R44 to R52) -/
  counters : Counters
  /-- sample, bit, frame and descriptor RAM (20_memory.md R104 to R107) -/
  mem : Memory
  /-- RDATA of the last read (30_encoding.md R150, log 10) -/
  rdata : Word
  /-- RESP of the last transaction: true is an error response (30_encoding.md R150, log 10) -/
  resp : Bool
  /-- which draws stand in unwritten words, and the next fresh draw (log 8) -/
  epochs : DrawEpochs
  /-- the events to come, the next one first (log 3) -/
  schedule : List Event
deriving DecidableEq, Repr

/-- The reasons the machine stops with a fault: there are none. The block has no traps and no exceptions
(60_exceptions.md R400), an unsupported access completes with an error response (20_memory.md R111), and no data and no
legal register value causes an error (60_exceptions.md R419). -/
inductive Fault
deriving DecidableEq, Repr

/-- The reasons a step is refused. -/
inductive Refusal where
  /-- Raised by an arm of `exec` for an instruction that has no meaning yet; safe. No arm raises it: every row of the
  opcode table has its meaning. -/
  | notModelled (mnemonic : String)
deriving DecidableEq, Repr

/-- The state right after reset (10_state.md R59, 70_reset_and_hazards.md R451), with SAMPLE_CAP at the spec's reference
value (log 6), no transaction answered yet (log 10), every RAM word a draw (log 7) and nothing scheduled (log 3, log 5). -/
def State.reset : State where
  capUnits := Config.referenceCapUnits
  engine := .idle
  irqEn := false
  status := { done := false, err := false, aborted := false, werr := false, errcode := 0#4 }
  sr := 0#18
  thresh := Config.threshReset
  nsamp := 0#23
  bitcount := 0#23
  counters :=
    { ncand := 0#32, naccept := 0#32, ncrcOk := 0#32, nrejShort := 0#32, nrejInact := 0#32,
      ndropLen := 0#32, ndropAddr := 0#32, nframeBytes := 0#32, tailbits := 0#32 }
  mem := []
  rdata := 0#32
  resp := false
  epochs := { sample := 0, bit := 0, frame := 0, desc := 0, next := 1 }
  schedule := []

end Sys2Proof.Machine
end

