-- ==== Sys2Proof/Machine/Sequences.lean ====
section
/-! DEFINITION. Operations on sequences that the stages share: patterns, windows, rolling, packing bits into bytes and
words into bytes, and the rounding of run lengths. -/

namespace Sys2Proof.Machine

/-- The least index `j` at which `pat` stands in a sequence, `x[j..j+|pat|) = pat` (41_frame_extractor.md R251). -/
def findPattern (pat : Bits) : Bits → Option Nat
  | [] => none
  | b :: bs => if pat.isPrefixOf (b :: bs) then some 0 else (findPattern pat bs).map (· + 1)

/-- FLAG (30_encoding.md R158). -/
def flagPattern : Bits := [false, true, true, true, true, true, true, false]

/-- INACTIVE: fifteen ones (30_encoding.md R158). -/
def inactivePattern : Bits := List.replicate 15 true

/-- STUFF: five ones, then a zero (30_encoding.md R158). -/
def stuffPattern : Bits := [true, true, true, true, true, false]

/-- `chunks` with a bound on the number of pieces. -/
def chunksUpTo {α : Type} (size : Nat) : Nat → List α → List (List α)
  | 0, _ => []
  | _ + 1, [] => []
  | n + 1, x :: xs => (x :: xs).take size :: chunksUpTo size n ((x :: xs).drop size)

/-- A sequence cut into consecutive pieces of `size` elements, the last one shorter when they do not divide it
(40_demodulator.md R204). -/
def chunks {α : Type} (size : Nat) (xs : List α) : List (List α) := chunksUpTo size xs.length xs

/-- The circular roll: element `i` of `roll unit s` is `s[(i - unit) mod |s|]` (40_demodulator.md R203). -/
def roll {α : Type} (unit : Nat) (s : List α) : List α :=
  s.drop (s.length - unit % s.length) ++ s.take (s.length - unit % s.length)

/-- A sequence filled up with `z` to a multiple of `size` elements (40_demodulator.md R212, 42_destuff_crc.md R317). -/
def padTo {α : Type} (size : Nat) (z : α) (xs : List α) : List α :=
  xs ++ List.replicate ((size - xs.length % size) % size) z

/-- A bit sequence read as a number, its first bit the least significant (42_destuff_crc.md R304). -/
def bitsValue : Bits → Nat
  | [] => 0
  | b :: bs => (if b then 1 else 0) + 2 * bitsValue bs

/-- Bits packed into bytes, the first bit of each eight in bit 0, a partial last byte filled with zeros
(42_destuff_crc.md R304, R305; the same lanes hold bit RAM, 20_memory.md R105). -/
def packBytes (d : Bits) : List Byte := (chunks 8 d).map fun c => BitVec.ofNat 8 (bitsValue c)

/-- The four byte lanes of a word, the least significant first (20_memory.md R112). -/
def wordBytes (v : Word) : List Byte :=
  [v.extractLsb' 0 8, v.extractLsb' 8 8, v.extractLsb' 16 8, v.extractLsb' 24 8]

/-- `rhe`: `n / d` rounded to the nearest integer, a tie to the even one (00_scope.md R10). -/
def rhe (n d : Nat) : Nat :=
  if 2 * (n % d) > d then n / d + 1
  else if 2 * (n % d) < d then n / d
  else n / d + n / d % 2

end Sys2Proof.Machine
end

