-- ==== Sys2Proof/Machine/Flags.lean ====
section
/-! DEFINITION. The flags: STATUS as a word, its write-1-to-clear write, the error codes, and the interrupt output. -/

namespace Sys2Proof.Machine

/-- BUSY as EngineState gives it (10_state.md R38, R56). -/
def EngineState.isBusy : EngineState → Bool
  | .idle => false
  | .busy _ => true

/-- STATUS as a read returns it: [0] BUSY, [1] DONE, [2] ERR, [3] ABORTED, [4] WERR, [11:8] ERRCODE, the rest 0
(10_state.md R38). -/
def statusWord (e : EngineState) (st : Status) : Word :=
  0#20 ++ st.errcode ++ 0#3 ++ BitVec.ofBool st.werr ++ BitVec.ofBool st.aborted ++ BitVec.ofBool st.err ++
    BitVec.ofBool st.done ++ BitVec.ofBool e.isBusy

/-- A host write of `v` to STATUS (10_state.md R39): a 1 in the place of DONE, ERR, ABORTED or WERR clears that bit, and
with ERR also ERRCODE. -/
def Status.w1c (st : Status) (v : Word) : Status :=
  { done := st.done && !v.getLsbD 1
    err := st.err && !v.getLsbD 2
    aborted := st.aborted && !v.getLsbD 3
    werr := st.werr && !v.getLsbD 4
    errcode := if v.getLsbD 2 then 0#4 else st.errcode }

/-- ERRCODE of each command error (60_exceptions.md R401). -/
def ErrorCode.code : ErrorCode → BitVec 4
  | .illegalCmd => 1#4
  | .busy => 2#4
  | .badSr => 3#4
  | .badNsamp => 4#4
  | .badBitcount => 5#4

/-- Recording a command error: only the first since ERR was last cleared is kept (60_exceptions.md R402). -/
def Status.record (st : Status) (e : ErrorCode) : Status :=
  if st.err then st else { st with err := true, errcode := e.code }

/-- What acceptance of a job does to the flags: DONE and ABORTED go to 0, ERR, ERRCODE and WERR stay
(43_commands.md R357). -/
def Status.accepted (st : Status) : Status := { st with done := false, aborted := false }

/-- The interrupt output, a level: IRQ_EN and (DONE or ERR) (60_exceptions.md R404). -/
def State.irq (s : State) : Bool := s.irqEn && (s.status.done || s.status.err)

end Sys2Proof.Machine
end

