-- ==== Sys2Proof/Machine/Ops.lean ====
section
/-! DEFINITION. The named operations over memory, registers and flags that the meanings are built from: reading and
writing RAM, turning RAM into draws, the answer of a transaction, raising a command error and clearing it. -/

namespace Sys2Proof.Machine

/-! ## Capacities and windows -/

/-- SAMPLE_CAP (00_scope.md R5). -/
def State.sampleCap (s : State) : Nat := 32 * (s.capUnits.val + 1)

/-- BIT_CAP (00_scope.md R5). -/
def State.bitCap (s : State) : Nat := s.sampleCap

/-- FRAME_CAP, in bytes (00_scope.md R5). -/
def State.frameCap (s : State) : Nat := s.sampleCap / 8

/-- DESC_CAP, in descriptors (00_scope.md R5). -/
def State.descCap (s : State) : Nat := s.sampleCap / 8

/-- The first offset of a RAM's window (20_memory.md R101). -/
def Ram.base : Ram → Nat
  | .bit => 0x0400000
  | .frame => 0x0800000
  | .desc => 0x1000000
  | .sample => 0x2000000

/-- The size of a RAM's window in bytes (20_memory.md R101). -/
def Ram.window : Ram → Nat
  | .bit => 0x80000
  | .frame => 0x80000
  | .desc => 0x1000000
  | .sample => 0x1000000

/-- The backed part of a RAM's window in bytes: BIT_CAP / 32 words, FRAME_CAP / 4 words, DESC_CAP descriptors of 32 bytes,
SAMPLE_CAP words (20_memory.md R101). -/
def State.ramBytes (s : State) : Ram → Nat
  | .bit => 4 * (s.bitCap / 32)
  | .frame => 4 * (s.frameCap / 4)
  | .desc => 32 * s.descCap
  | .sample => 4 * s.sampleCap

/-- The offset lies in the RAM's window. -/
def Ram.holds (m : Ram) (a : Nat) : Bool := decide (m.base ≤ a) && decide (a < m.base + m.window)

/-! ## Memory -/

/-- The byte stored at an offset, if one has been written. -/
def Memory.get : Memory → Nat → Option Byte
  | [], _ => none
  | (k, x) :: m, a => if k = a then some x else Memory.get m a

/-- Storing one byte, in its place in the rising order. -/
def Memory.set : Memory → Nat → Byte → Memory
  | [], a, v => [(a, v)]
  | (k, x) :: m, a, v =>
    if a < k then (a, v) :: (k, x) :: m
    else if a = k then (a, v) :: m
    else (k, x) :: Memory.set m a v

/-- Storing bytes at consecutive offsets. -/
def Memory.setBytes : Memory → Nat → List Byte → Memory
  | m, _, [] => m
  | m, a, b :: bs => Memory.setBytes (Memory.set m a b) (a + 1) bs

/-- Forgetting every byte of a RAM's window: each word becomes a draw again. -/
def Memory.forget (m : Memory) (r : Ram) : Memory := m.filter fun c => !r.holds c.1

/-- The canonical form: offsets strictly rising. (No entry can equal what an unlisted offset reads as: see `Memory`.) -/
def Memory.wf : Memory → Bool
  | [] => true
  | [_] => true
  | (k, _) :: (l, y) :: m => decide (k < l) && Memory.wf ((l, y) :: m)

/-- The draw number of a RAM's unwritten words. -/
def DrawEpochs.of (e : DrawEpochs) : Ram → Nat
  | .sample => e.sample
  | .bit => e.bit
  | .frame => e.frame
  | .desc => e.desc

/-- A RAM's unwritten words become a fresh draw. -/
def DrawEpochs.renew (e : DrawEpochs) : Ram → DrawEpochs
  | .sample => { e with sample := e.next }
  | .bit => { e with bit := e.next }
  | .frame => { e with frame := e.next }
  | .desc => { e with desc := e.next }

/-- One fresh draw has been used. -/
def DrawEpochs.advance (e : DrawEpochs) : DrawEpochs := { e with next := e.next + 1 }

/-- The byte of a RAM at an offset: the one written last, or the draw (20_memory.md R109, 93_implementation_defined.md
U1: the same value at each read until it is written). -/
def State.byteAt (s : State) (m : Ram) (a : Nat) : Byte :=
  (Memory.get s.mem a).getD (Config.ramDraw (s.epochs.of m) a)

/-- The low half of the word at an offset: a sample's stored pattern (20_memory.md R104). -/
def State.halfAt (s : State) (m : Ram) (a : Nat) : Half := s.byteAt m (a + 1) ++ s.byteAt m a

/-- The word at an offset, its lowest byte in the lowest lane (20_memory.md R112). -/
def State.wordAt (s : State) (m : Ram) (a : Nat) : Word :=
  s.byteAt m (a + 3) ++ s.byteAt m (a + 2) ++ s.byteAt m (a + 1) ++ s.byteAt m a

/-- Storing bytes in RAM. -/
def State.storeBytes (s : State) (a : Nat) (bs : List Byte) : State := { s with mem := Memory.setBytes s.mem a bs }

/-- What a host read of a RAM word returns: a sample sign-extended (20_memory.md R104), any other word as it stands
(R105, R106, R107). -/
def State.readRam (s : State) (m : Ram) (a : Nat) : Word :=
  match m with
  | .sample => (s.halfAt .sample a).signExtend 32
  | .bit => s.wordAt .bit a
  | .frame => s.wordAt .frame a
  | .desc => s.wordAt .desc a

/-- What an idle host write stores in a RAM word: the low 16 bits of a sample (20_memory.md R104), all 32 bits of bit RAM
(R105); frame and descriptor RAM are read-only (R108). -/
def State.writeRam (s : State) (m : Ram) (a : Nat) (v : Word) : State :=
  match m with
  | .sample => s.storeBytes a [v.extractLsb' 0 8, v.extractLsb' 8 8]
  | .bit => s.storeBytes a (wordBytes v)
  | .frame => s
  | .desc => s

/-! ## The answer of a transaction -/

/-- A transaction that returns no data completes: RESP is 1 for an error response (30_encoding.md R150). -/
def State.respond (s : State) (error : Bool) : State := { s with resp := error }

/-- A read completes with its data (30_encoding.md R150). -/
def State.respondRead (s : State) (data : Word) (error : Bool) : State := { s with rdata := data, resp := error }

/-- A read of a location the running job writes returns a fresh draw (20_memory.md R118, 93_implementation_defined.md
U2). -/
def State.respondDraw (s : State) : State :=
  { s with rdata := Config.readDraw s.epochs.next, resp := false, epochs := s.epochs.advance }

/-! ## Errors: entry and return -/

/-- `raise Error(code)`: the whole entry (60_exceptions.md R402, R407). Nothing is saved and nothing else changes. -/
def State.raiseError (s : State) (e : ErrorCode) : State := { s with status := s.status.record e }

/-- The return: the host's W1C write of STATUS (10_state.md R39, 60_exceptions.md R408). -/
def State.writeStatus (s : State) (v : Word) : State := { s with status := s.status.w1c v }

/-- A host write ignored because a job runs (20_memory.md R119, 60_exceptions.md R409). -/
def State.ignoreWrite (s : State) : State := { s with status := { s.status with werr := true } }

end Sys2Proof.Machine
end

