-- ==== Sys2Proof/Machine/Operands.lean ====
section
/-! DEFINITION. Operands: the address map, the registers as a read and a write see them, and the values a job computes
with (30_encoding.md R156). -/

namespace Sys2Proof.Machine

/-- The offset of a register (10_state.md R32). -/
def Reg.offset : Reg → Nat
  | .id => 0x000
  | .version => 0x004
  | .cap => 0x008
  | .ctrl => 0x010
  | .cmd => 0x014
  | .status => 0x018
  | .sr => 0x020
  | .thresh => 0x024
  | .nsamp => 0x028
  | .bitcount => 0x02C
  | .ncand => 0x030
  | .naccept => 0x034
  | .ncrcOk => 0x038
  | .nrejShort => 0x03C
  | .nrejInact => 0x040
  | .ndropLen => 0x044
  | .ndropAddr => 0x048
  | .nframeBytes => 0x04C
  | .tailbits => 0x050

/-- Every implemented register (10_state.md R32). -/
def Reg.all : List Reg :=
  [.id, .version, .cap, .ctrl, .cmd, .status, .sr, .thresh, .nsamp, .bitcount, .ncand, .naccept, .ncrcOk, .nrejShort,
    .nrejInact, .ndropLen, .ndropAddr, .nframeBytes, .tailbits]

/-- The register at an offset, if one is implemented there (10_state.md R32, R53). -/
def Reg.at (a : Nat) : Option Reg := Reg.all.find? fun r => decide (r.offset = a)

/-- The offset lies in the backed part of the RAM's window (20_memory.md R101, R102). -/
def State.backs (s : State) (m : Ram) (a : Nat) : Bool := decide (m.base ≤ a) && decide (a < m.base + s.ramBytes m)

/-- What an aligned offset names, if it is backed (20_memory.md R101, R102). -/
def State.backed (s : State) (a : Nat) : Option Location :=
  if a < 0x1000 then (Reg.at a).map .reg
  else if s.backs .bit a then some (.ram .bit a)
  else if s.backs .frame a then some (.ram .frame a)
  else if s.backs .desc a then some (.ram .desc a)
  else if s.backs .sample a then some (.ram .sample a)
  else none

/-- What a transaction reaches; `none` is an error response: a size other than 4, a misaligned or an unbacked offset, in
this order (20_memory.md R111, 30_encoding.md R165). -/
def State.locate (s : State) (size : Nat) (addr : Addr) : Option Location :=
  if size ≠ Config.accessSize then none
  else if addr.toNat % 4 ≠ 0 then none
  else s.backed addr.toNat

/-- The value of a register (10_state.md R33 to R52); bits outside a register's fields read 0 (R54). -/
def State.readReg (s : State) : Reg → Word
  | .id => Config.idValue
  | .version => Config.versionValue
  | .cap => BitVec.ofNat 32 s.sampleCap
  | .ctrl => 0#31 ++ BitVec.ofBool s.irqEn
  | .cmd => 0#32
  | .status => statusWord s.engine s.status
  | .sr => s.sr.setWidth 32
  | .thresh => s.thresh.setWidth 32
  | .nsamp => s.nsamp.setWidth 32
  | .bitcount => s.bitcount.setWidth 32
  | .ncand => s.counters.ncand
  | .naccept => s.counters.naccept
  | .ncrcOk => s.counters.ncrcOk
  | .nrejShort => s.counters.nrejShort
  | .nrejInact => s.counters.nrejInact
  | .ndropLen => s.counters.ndropLen
  | .ndropAddr => s.counters.ndropAddr
  | .nframeBytes => s.counters.nframeBytes
  | .tailbits => s.counters.tailbits

/-- The value of a location when no job is writing it (43_commands.md R359). -/
def State.readLocation (s : State) : Location → Word
  | .reg r => s.readReg r
  | .ram m a => s.readRam m a

/-- The registers that hold what a frame stage reports (10_state.md R44 to R52). -/
def Reg.isCounter : Reg → Bool
  | .ncand => true
  | .naccept => true
  | .ncrcOk => true
  | .nrejShort => true
  | .nrejInact => true
  | .ndropLen => true
  | .ndropAddr => true
  | .nframeBytes => true
  | .tailbits => true
  | .id => false
  | .version => false
  | .cap => false
  | .ctrl => false
  | .cmd => false
  | .status => false
  | .sr => false
  | .thresh => false
  | .nsamp => false
  | .bitcount => false

/-- The job has a demodulator stage (43_commands.md R358). -/
def Job.demodulates : Job → Bool
  | .run => true
  | .demod => true
  | .frame => false

/-- The job has a frame stage (43_commands.md R358). -/
def Job.frames : Job → Bool
  | .run => true
  | .demod => false
  | .frame => true

/-- The RAMs a job writes (20_memory.md R118). -/
def Job.writesRam (j : Job) : Ram → Bool
  | .sample => false
  | .bit => j.demodulates
  | .frame => j.frames
  | .desc => j.frames

/-- The registers a job writes (20_memory.md R118). -/
def Job.writesReg (j : Job) (r : Reg) : Bool := (j.demodulates && decide (r = .bitcount)) || (j.frames && r.isCounter)

/-- The locations a job writes (20_memory.md R118). -/
def Job.writes (j : Job) : Location → Bool
  | .reg r => j.writesReg r
  | .ram m _ => j.writesRam m

/-- The running job, if there is one, writes the location (20_memory.md R118). -/
def EngineState.writes : EngineState → Location → Bool
  | .idle, _ => false
  | .busy j, l => j.writes l

/-! ## What a job computes with (30_encoding.md R156) -/

/-- SR in Hz. -/
def State.sampleRate (s : State) : Nat := s.sr.toNat

/-- T, the threshold in units of 2^-30. -/
def State.threshold (s : State) : Nat := s.thresh.toNat

/-- N, the number of samples. -/
def State.sampleCount (s : State) : Nat := s.nsamp.toNat

/-- M, the number of bits. -/
def State.bitLength (s : State) : Nat := s.bitcount.toNat

/-- `SampleRAM[i]`, signed (20_memory.md R104). -/
def State.sampleAt (s : State) (i : Nat) : Int := (s.halfAt .sample (Ram.sample.base + 4 * i)).toInt

/-- `BitRAM[k]`: bit `k mod 32` of word `k div 32` (20_memory.md R105), which is bit `k mod 8` of byte `k div 8`. -/
def State.bitAt (s : State) (k : Nat) : Bool := (s.byteAt .bit (Ram.bit.base + k / 8)).getLsbD (k % 8)

/-- The samples 0 to N-1 of a job (40_demodulator.md R200). -/
def State.samples (s : State) : List Int := (List.range s.sampleCount).map s.sampleAt

/-- The bits 0 to M-1 of a frame stage (41_frame_extractor.md R250). -/
def State.inputBits (s : State) : Bits := (List.range s.bitLength).map s.bitAt

end Sys2Proof.Machine
end

