-- ==== Sys2Proof/Machine/Demodulator.lean ====
section
/-! DEFINITION. The demodulator stage (40_demodulator.md). Sums are exact integers: the 48-bit accumulator of R205 never
wraps on a legal input (log 15). -/

namespace Sys2Proof.Machine

/-- `c[i] = 2 * s[i] * s[(i - unit) mod N]` (40_demodulator.md R203). -/
def correlate (unit : Nat) (s : List Int) : List Int := List.zipWith (fun x y => 2 * x * y) s (roll unit s)

/-- The level of a window with sum `sum` (40_demodulator.md R206, R207): both comparisons are strict. -/
def levelOf (t : Nat) (sum : Int) : Byte :=
  if sum > (t : Int) then 254#8 else if sum < -(t : Int) then 0#8 else 127#8

/-- The level of every sample: each window's level over the window's indices (40_demodulator.md R204, R206, R207). -/
def levels (t unit : Nat) (c : List Int) : List Byte :=
  (chunks unit c).flatMap fun w => List.replicate w.length (levelOf t w.sum)

/-- The bit of a level: 0 below 127, else 1 (40_demodulator.md R208). -/
def bitval (l : Byte) : Bool := decide (127 ≤ l.toNat)

/-- The runs still to be emitted while a run of level `cur` stands at length `len` (40_demodulator.md R209). -/
def runsFrom (cur : Byte) (len : Nat) : List Byte → List (Byte × Nat)
  | [] => []
  | l :: ls => if l = cur then runsFrom cur (len + 1) ls else (cur, len) :: runsFrom l 1 ls

/-- The emitted runs, each a level and its length; the run in progress at the end is not emitted (40_demodulator.md
R209). -/
def emittedRuns : List Byte → List (Byte × Nat)
  | [] => []
  | l :: ls => runsFrom l 1 ls

/-- The bits an emitted run appends (40_demodulator.md R210). -/
def runBits (sr : Nat) (r : Byte × Nat) : Bits := List.replicate (rhe (r.2 * Config.baud) sr) (bitval r.1)

/-- The level of every sample of a stream (40_demodulator.md R201 to R207). -/
def sampleLevels (sr t : Nat) (s : List Int) : List Byte :=
  levels t (sr / Config.unitDiv) (correlate (sr / Config.unitDiv) s)

/-- The bit sequence of a sample stream (40_demodulator.md R213). -/
def demodulate (sr t : Nat) (s : List Int) : Bits := (emittedRuns (sampleLevels sr t s)).flatMap (runBits sr)

/-- The bits a demodulator stage puts out. -/
def State.demodBits (s : State) : Bits := demodulate s.sampleRate s.threshold s.samples

/-- DEMOD_STAGE (40_demodulator.md R213): the bits go to bit RAM, zeros above the last bit of the last word (R212), their
number to BITCOUNT (R211). -/
def State.demodStage (s : State) : State :=
  { s with
    mem := Memory.setBytes s.mem Ram.bit.base (packBytes (padTo 32 false s.demodBits))
    bitcount := BitVec.ofNat 23 s.demodBits.length }

end Sys2Proof.Machine
end

