-- ==== Sys2Proof/Machine/FieldSteps.lean ====
section
/-! DEFINITION. The field steps on one candidate: destuffing, packing, validation and CRC (42_destuff_crc.md), and the
words of a descriptor (30_encoding.md R160). -/

namespace Sys2Proof.Machine

/-- `destuff` with a bound on the number of deletions. -/
def destuffUpTo : Nat → Bits → Bits
  | 0, c => c
  | n + 1, c =>
    match findPattern stuffPattern c with
    | none => c
    | some p => c.take (p + 5) ++ destuffUpTo n (c.drop (p + 6))

/-- DESTUFF (42_destuff_crc.md R300): the zero of the next `1,1,1,1,1,0` is deleted and the search goes on at the place
where it stood, so the ones before it are not counted again (R301). -/
def destuff (c : Bits) : Bits := destuffUpTo c.length c

/-- STUFF with `ones` consecutive ones just emitted. -/
def stuffFrom : Nat → Bits → Bits
  | _, [] => []
  | _, false :: bs => false :: stuffFrom 0 bs
  | ones, true :: bs => if ones = 4 then true :: false :: stuffFrom 0 bs else true :: stuffFrom (ones + 1) bs

/-- STUFF, the sender's zero-insertion (42_destuff_crc.md R302): a zero after every fifth consecutive one. No instruction
runs it; claims about `destuff` speak of it. -/
def stuff (x : Bits) : Bits := stuffFrom 0 x

/-- One shift of the CRC register (42_destuff_crc.md R311). -/
def crcShift (crc : Half) : Half := if crc.getLsbD 0 then (crc >>> 1) ^^^ 0x8408#16 else crc >>> 1

/-- One byte through the CRC register: eight shifts (42_destuff_crc.md R311). -/
def crcByte (crc : Half) (v : Byte) : Half :=
  crcShift (crcShift (crcShift (crcShift (crcShift (crcShift (crcShift (crcShift (crc ^^^ v.setWidth 16))))))))

/-- CRC16 (42_destuff_crc.md R311, log 14). -/
def crc16 (bytes : List Byte) : Half := bytes.foldl crcByte 0xFFFF#16 ^^^ 0xFFFF#16

/-- The structural checks, in their order (42_destuff_crc.md R307). -/
def classifyBytes (bytes : List Byte) : CandidateClass :=
  if bytes.length < Config.minFrameBytes then .dropLen
  else if bytes.getD 0 0#8 ≠ Config.addrByte then .dropAddr
  else .accept

/-- CRC_CALC of an accepted array: over every byte but the last two (42_destuff_crc.md R312). -/
def crcCalc (bytes : List Byte) : Half := crc16 (bytes.take (bytes.length - 2))

/-- CRC_RX of an accepted array: its last two bytes, the low one first (42_destuff_crc.md R312). -/
def crcRx (bytes : List Byte) : Half := bytes.getD (bytes.length - 1) 0#8 ++ bytes.getD (bytes.length - 2) 0#8

/-- The descriptor of a candidate that is rejected before the field steps (41_frame_extractor.md R257). -/
def rejected (cls : CandidateClass) (c : Bits) (start off : Nat) : Descriptor :=
  { cls := cls, crcOk := false, resid := 0, candStart := start, candLen := c.length, dstufLen := 0, byteOff := off,
    nbytes := 0, crcCalc := 0#16, crcRx := 0#16 }

/-- The descriptor of a destuffed candidate whose bytes are `bytes` (42_destuff_crc.md R316). The CRC is evaluated for
ACCEPT only (R315). -/
def describe (c d : Bits) (bytes : List Byte) (start off : Nat) : Descriptor :=
  match classifyBytes bytes with
  | .accept =>
    { cls := .accept, crcOk := decide (crcCalc bytes = crcRx bytes), resid := d.length % 8, candStart := start,
      candLen := c.length, dstufLen := d.length, byteOff := off, nbytes := bytes.length,
      crcCalc := crcCalc bytes, crcRx := crcRx bytes }
  | cls =>
    { cls := cls, crcOk := false, resid := d.length % 8, candStart := start, candLen := c.length,
      dstufLen := d.length, byteOff := off, nbytes := bytes.length, crcCalc := 0#16, crcRx := 0#16 }

/-- FIELD_STEPS (42_destuff_crc.md R316): the candidate's descriptor and the bytes it puts into frame RAM (R306). -/
def fieldSteps (c : Bits) (start off : Nat) : Descriptor × List Byte :=
  (describe c (destuff c) (packBytes (destuff c)) start off, packBytes (destuff c))

/-- CLASS as stored (30_encoding.md R161). -/
def CandidateClass.code : CandidateClass → BitVec 3
  | .accept => 0#3
  | .rejShort => 1#3
  | .rejInactive => 2#3
  | .dropLen => 3#3
  | .dropAddr => 4#3

/-- The eight words of a descriptor (30_encoding.md R160). -/
def Descriptor.words (d : Descriptor) : List Word :=
  [0#25 ++ BitVec.ofNat 3 d.resid ++ BitVec.ofBool d.crcOk ++ d.cls.code,
    BitVec.ofNat 32 d.candStart, BitVec.ofNat 32 d.candLen, BitVec.ofNat 32 d.dstufLen,
    BitVec.ofNat 32 d.byteOff, BitVec.ofNat 32 d.nbytes, d.crcRx ++ d.crcCalc, 0#32]

/-- The 32 bytes of a descriptor, as descriptor RAM holds them (20_memory.md R107). -/
def Descriptor.bytes (d : Descriptor) : List Byte := d.words.flatMap wordBytes

end Sys2Proof.Machine
end

