-- ==== Sys2Proof/Machine/FrameExtractor.lean ====
section
/-! DEFINITION. The frame extractor stage (41_frame_extractor.md). -/

namespace Sys2Proof.Machine

/-- A candidate: the bit index it starts at, and its bits. -/
abbrev Candidate := Nat × Bits

/-- `splitFlags` with a bound on the number of flags. -/
def splitUpTo : Nat → Nat → Bits → List Candidate × Nat
  | 0, _, b => ([], b.length)
  | n + 1, pos, b =>
    match findPattern flagPattern b with
    | none => ([], b.length)
    | some f =>
      ((pos, b.take f) :: (splitUpTo n (pos + f + 8) (b.drop (f + 8))).1, (splitUpTo n (pos + f + 8) (b.drop (f + 8))).2)

/-- The candidates of a bit sequence in the order found, and the number of bits behind the last flag
(41_frame_extractor.md R251, R252, R253). -/
def splitFlags (b : Bits) : List Candidate × Nat := splitUpTo b.length 0 b

/-- What becomes of a candidate (41_frame_extractor.md R254, R255, R256): its descriptor, and its bytes for frame RAM. -/
def processCandidate (c : Candidate) (off : Nat) : Descriptor × List Byte :=
  if c.2.length < Config.minCandBits then (rejected .rejShort c.2 c.1 off, [])
  else if (findPattern inactivePattern c.2).isSome then (rejected .rejInactive c.2 c.1 off, [])
  else fieldSteps c.2 c.1 off

/-- The candidates processed in order, the frame RAM write index moving on by each one's bytes (41_frame_extractor.md
R257, 42_destuff_crc.md R306). -/
def processAll : Nat → List Candidate → List (Descriptor × List Byte)
  | _, [] => []
  | off, c :: cs => processCandidate c off :: processAll (off + (processCandidate c off).2.length) cs

/-- What a frame stage makes of a bit sequence. -/
structure FrameResult where
  /-- the descriptors, in order -/
  descs : List Descriptor
  /-- the bytes for frame RAM, in order -/
  bytes : List Byte
  /-- TAILBITS -/
  tail : Nat
deriving DecidableEq, Repr

/-- The frame stage on a bit sequence (41_frame_extractor.md R259). -/
def extractFrames (b : Bits) : FrameResult :=
  { descs := (processAll 0 (splitFlags b).1).map Prod.fst
    bytes := (processAll 0 (splitFlags b).1).flatMap Prod.snd
    tail := (splitFlags b).2 }

/-- The number of descriptors of a class. -/
def countClass (cls : CandidateClass) (ds : List Descriptor) : Nat := ds.countP fun d => decide (d.cls = cls)

/-- The number of ACCEPT descriptors with CRC_OK (10_state.md R46). -/
def countGood (ds : List Descriptor) : Nat := ds.countP fun d => decide (d.cls = .accept) && d.crcOk

/-- The nine result counters of a frame stage (10_state.md R44 to R52, 41_frame_extractor.md R261). -/
def FrameResult.counters (r : FrameResult) : Counters :=
  { ncand := BitVec.ofNat 32 r.descs.length
    naccept := BitVec.ofNat 32 (countClass .accept r.descs)
    ncrcOk := BitVec.ofNat 32 (countGood r.descs)
    nrejShort := BitVec.ofNat 32 (countClass .rejShort r.descs)
    nrejInact := BitVec.ofNat 32 (countClass .rejInactive r.descs)
    ndropLen := BitVec.ofNat 32 (countClass .dropLen r.descs)
    ndropAddr := BitVec.ofNat 32 (countClass .dropAddr r.descs)
    nframeBytes := BitVec.ofNat 32 r.bytes.length
    tailbits := BitVec.ofNat 32 r.tail }

/-- The result of the frame stage on the bits in bit RAM. -/
def State.frameResult (s : State) : FrameResult := extractFrames s.inputBits

/-- The memory after a frame stage: descriptors in descriptor RAM, bytes in frame RAM with zeros above the last byte of the
last word (42_destuff_crc.md R317). -/
def FrameResult.store (r : FrameResult) (m : Memory) : Memory :=
  Memory.setBytes (Memory.setBytes m Ram.desc.base (r.descs.flatMap Descriptor.bytes)) Ram.frame.base (padTo 4 0#8 r.bytes)

/-- FRAME_STAGE (41_frame_extractor.md R259). -/
def State.frameStage (s : State) : State :=
  { s with mem := s.frameResult.store s.mem, counters := s.frameResult.counters }

end Sys2Proof.Machine
end

