-- ==== Sys2Proof/Machine/Engine.lean ====
section
/-! DEFINITION. The engine: completion of a job, what ABORT leaves of its outputs, and the reset event. -/

namespace Sys2Proof.Machine

/-- The stages of a job, in their order (43_commands.md R358). -/
def State.runStages (s : State) : Job → State
  | .run => s.demodStage.frameStage
  | .demod => s.demodStage
  | .frame => s.frameStage

/-- The end of a job: EngineState IDLE, DONE 1 (43_commands.md R358). -/
def State.finishJob (s : State) : State := { s with engine := .idle, status := { s.status with done := true } }

/-- COMPLETE(job): one atomic step (43_commands.md R358). -/
def State.complete (s : State) (j : Job) : State := (s.runStages j).finishJob

/-- The engine's turn: its one enabled step while a job runs, nothing while it is idle (43_commands.md R358, 60_exceptions.md
R417). -/
def State.engineTurn (s : State) : State :=
  match s.engine with
  | .idle => s
  | .busy j => s.complete j

/-- The nine counters as draw number `n` (43_commands.md R355, 93_implementation_defined.md U3). -/
def drawnCounters (n : Nat) : Counters :=
  { ncand := Config.registerDraw n Reg.ncand.offset
    naccept := Config.registerDraw n Reg.naccept.offset
    ncrcOk := Config.registerDraw n Reg.ncrcOk.offset
    nrejShort := Config.registerDraw n Reg.nrejShort.offset
    nrejInact := Config.registerDraw n Reg.nrejInact.offset
    ndropLen := Config.registerDraw n Reg.ndropLen.offset
    ndropAddr := Config.registerDraw n Reg.ndropAddr.offset
    nframeBytes := Config.registerDraw n Reg.nframeBytes.offset
    tailbits := Config.registerDraw n Reg.tailbits.offset }

/-- The outputs of a demodulator stage become draws: bit RAM, and BITCOUNT in its 23-bit field (43_commands.md R355,
93_implementation_defined.md U3). -/
def State.drawDemodOutputs (s : State) : State :=
  { s with
    mem := Memory.forget s.mem .bit
    epochs := s.epochs.renew .bit
    bitcount := (Config.registerDraw s.epochs.next Reg.bitcount.offset).setWidth 23 }

/-- The outputs of a frame stage become draws: frame RAM, descriptor RAM and the nine counters (43_commands.md R355). -/
def State.drawFrameOutputs (s : State) : State :=
  { s with
    mem := Memory.forget (Memory.forget s.mem .frame) .desc
    epochs := (s.epochs.renew .frame).renew .desc
    counters := drawnCounters s.epochs.next }

/-- The outputs of a job become draws (43_commands.md R355). -/
def State.drawOutputs (s : State) : Job → State
  | .run => s.drawDemodOutputs.drawFrameOutputs
  | .demod => s.drawDemodOutputs
  | .frame => s.drawFrameOutputs

/-- The end of an aborted job: EngineState IDLE, ABORTED 1, and the draw its outputs became is used up (43_commands.md
R355). -/
def State.endAborted (s : State) : State :=
  { s with engine := .idle, status := { s.status with aborted := true }, epochs := s.epochs.advance }

/-- ABORT (43_commands.md R355): a running job ends and its outputs become draws; no effect while idle. -/
def State.abortJob (s : State) : State :=
  match s.engine with
  | .idle => s
  | .busy j => (s.drawOutputs j).endAborted

/-- The draw numbers after a reset: every RAM a fresh draw (70_reset_and_hazards.md R451). -/
def DrawEpochs.renewAll (e : DrawEpochs) : DrawEpochs :=
  { sample := e.next, bit := e.next, frame := e.next, desc := e.next, next := e.next + 1 }

/-- The reset event (70_reset_and_hazards.md R450, R451, R452): every register at its reset value, every RAM word a fresh
draw, a running job ended with no completion. SAMPLE_CAP stays, and so do the answer of the last transaction and the events
still to come (log 12). -/
def State.resetBlock (s : State) : State :=
  { State.reset with
    capUnits := s.capUnits
    rdata := s.rdata
    resp := s.resp
    epochs := s.epochs.renewAll
    schedule := s.schedule }

end Sys2Proof.Machine
end

