-- ==== Sys2Proof/Machine/Commands.lean ====
section
/-! DEFINITION. The meanings of the five commands (43_commands.md), and what a word written to CMD does. A command is a
host write that completes normally, so each meaning also answers RESP = 0 (log 10). -/

namespace Sys2Proof.Machine

/-- The first failing check of START(job), in the order of 43_commands.md R357 and 60_exceptions.md R403. -/
def State.startError (s : State) (j : Job) : Option ErrorCode :=
  if s.engine.isBusy then some .busy
  else if j.demodulates && decide (s.sampleRate < Config.minSampleRate) then some .badSr
  else if j.demodulates && decide (s.sampleCount > s.sampleCap) then some .badNsamp
  else if decide (j = .frame) && decide (s.bitLength > s.bitCap) then some .badBitcount
  else none

/-- Acceptance of a job (43_commands.md R357). -/
def State.acceptJob (s : State) (j : Job) : State := { s with engine := .busy j, status := s.status.accepted }

/-- START(job): the first failing check raises its error and nothing else happens; otherwise the job is accepted
(43_commands.md R357). -/
def State.startJob (s : State) (j : Job) : State :=
  match s.startError j with
  | some e => s.raiseError e
  | none => s.acceptJob j

/-- ON_CMD (43_commands.md R350): a word that is no command raises ILLEGAL_CMD (30_encoding.md R153, R154). -/
def State.onCmd (s : State) (v : Word) : State :=
  match decodeCommand v with
  | .error _ => s.raiseError .illegalCmd
  | .ok .nop => s
  | .ok .run => s.startJob .run
  | .ok .demod => s.startJob .demod
  | .ok .frame => s.startJob .frame
  | .ok .abort => s.abortJob

/-- NOP (43_commands.md R351). -/
def execNop (s : State) : Host.Outcome State Fault Refusal := .next (s.respond false)

/-- RUN (43_commands.md R352). -/
def execRun (s : State) : Host.Outcome State Fault Refusal := .next ((s.startJob .run).respond false)

/-- DEMOD (43_commands.md R353). -/
def execDemod (s : State) : Host.Outcome State Fault Refusal := .next ((s.startJob .demod).respond false)

/-- FRAME (43_commands.md R354). -/
def execFrame (s : State) : Host.Outcome State Fault Refusal := .next ((s.startJob .frame).respond false)

/-- ABORT (43_commands.md R355). -/
def execAbort (s : State) : Host.Outcome State Fault Refusal := .next (s.abortJob.respond false)

end Sys2Proof.Machine
end

