-- ==== Sys2Proof/Machine/Bus.lean ====
section
/-! DEFINITION. The meanings of the two bus transactions (43_commands.md R359, R360). -/

namespace Sys2Proof.Machine

/-- A host write to a register (43_commands.md R360): CMD and STATUS have their effects, CTRL is writable at any time, SR,
THRESH, NSAMP and BITCOUNT store their field unless a job runs (20_memory.md R119), the rest ignore it (10_state.md
R54). -/
def State.writeReg (s : State) (v : Word) : Reg → State
  | .cmd => s.onCmd v
  | .status => s.writeStatus v
  | .ctrl => { s with irqEn := v.getLsbD 0 }
  | .sr => if s.engine.isBusy then s.ignoreWrite else { s with sr := v.setWidth 18 }
  | .thresh => if s.engine.isBusy then s.ignoreWrite else { s with thresh := v.setWidth 22 }
  | .nsamp => if s.engine.isBusy then s.ignoreWrite else { s with nsamp := v.setWidth 23 }
  | .bitcount => if s.engine.isBusy then s.ignoreWrite else { s with bitcount := v.setWidth 23 }
  | .id => s
  | .version => s
  | .cap => s
  | .ncand => s
  | .naccept => s
  | .ncrcOk => s
  | .nrejShort => s
  | .nrejInact => s
  | .ndropLen => s
  | .ndropAddr => s
  | .nframeBytes => s
  | .tailbits => s

/-- The host may write the RAM (20_memory.md R108). -/
def Ram.hostWritable : Ram → Bool
  | .sample => true
  | .bit => true
  | .frame => false
  | .desc => false

/-- A host write to a backed location (43_commands.md R360). A write to sample or bit RAM while a job runs is ignored and
sets WERR (20_memory.md R119); one to frame or descriptor RAM is ignored and does not (R108). -/
def State.writeLocation (s : State) (v : Word) : Location → State
  | .reg r => s.writeReg v r
  | .ram m a => if m.hostWritable && s.engine.isBusy then s.ignoreWrite else s.writeRam m a v

/-- BUS_READ32 (43_commands.md R359). A location the running job writes reads as a draw, registers too (20_memory.md R118,
log 9). -/
def execBusRead32 (size : Nat) (addr : Addr) (s : State) : Host.Outcome State Fault Refusal :=
  match s.locate size addr with
  | none => .next (s.respondRead 0#32 true)
  | some l => .next (if s.engine.writes l then s.respondDraw else s.respondRead (s.readLocation l) false)

/-- BUS_WRITE32 (43_commands.md R360). An error response changes nothing else (20_memory.md R111). -/
def execBusWrite32 (size : Nat) (addr : Addr) (wdata : Word) (s : State) : Host.Outcome State Fault Refusal :=
  match s.locate size addr with
  | none => .next (s.respond true)
  | some l => .next ((s.writeLocation wdata l).respond false)

end Sys2Proof.Machine
end

