-- ==== Sys2Proof/Machine/Dispatch.lean ====
section
/-! DEFINITION. One arm per row of the opcode table. -/

namespace Sys2Proof.Machine

def exec (i : Instr) (s : State) : Host.Outcome State Fault Refusal :=
  match i with
  | .nop => Sys2Proof.Machine.execNop s
  | .run => Sys2Proof.Machine.execRun s
  | .demod => Sys2Proof.Machine.execDemod s
  | .frame => Sys2Proof.Machine.execFrame s
  | .abort => Sys2Proof.Machine.execAbort s
  | .busRead32 size addr => Sys2Proof.Machine.execBusRead32 size addr s
  | .busWrite32 size addr wdata => Sys2Proof.Machine.execBusWrite32 size addr wdata s

end Sys2Proof.Machine
end

