-- ==== Sys2Proof/Machine/Schedule.lean ====
section
/-! DEFINITION. The schedule: which event the next step takes (20_memory.md R116, 60_exceptions.md R406, log 3). -/

namespace Sys2Proof.Machine

/-- The event at the head of the schedule; with nothing scheduled it is the engine's turn, so a running job completes
(70_reset_and_hazards.md R460, log 4) and an idle block waits (R453). -/
def State.nextEvent (s : State) : Event :=
  match s.schedule with
  | [] => .engine
  | e :: _ => e

/-- The state with the next event taken from the schedule. -/
def State.takeEvent (s : State) : State := { s with schedule := s.schedule.tail }

/-- A transaction placed at the head of the schedule. -/
def State.placeTransaction (s : State) (t : BusTransaction) : State := { s with schedule := .host t :: s.schedule }

end Sys2Proof.Machine
end

