-- ==== Sys2Proof/Machine/Step.lean ====
section
/-! DEFINITION. One step: the next event of the schedule, atomic (20_memory.md R115, R116). -/

namespace Sys2Proof.Machine

/-- One step. A host transaction is decoded and run; the engine's turn completes the running job; the reset input resets
the block. -/
def step (s : State) : Host.Outcome State Fault Refusal :=
  match s.nextEvent with
  | .host t => exec (decode t) s.takeEvent
  | .engine => .next s.takeEvent.engineTurn
  | .reset => .next s.takeEvent.resetBlock

/-- The transaction of a table word placed where the next step takes it (log 5). -/
def State.withFetchWord (s : State) (nbits w : Nat) : State := s.placeTransaction (tableTransaction nbits w)

end Sys2Proof.Machine
end

