-- ==== Sys2Proof/Safety.lean ====
section
/-! DEFINITION. The terms claims are stated in: the legal states and the invariant that every step keeps, the address map
and the tables of the spec written out a second time for claims to compare the model with. -/

namespace Sys2Proof.Machine

/-- A backed byte offset that holds a stored byte: the two bytes of a sample, any byte of the other RAMs (20_memory.md R101,
R104). -/
def State.stores (s : State) (a : Nat) : Bool :=
  s.backs .bit a || s.backs .frame a || s.backs .desc a || (s.backs .sample a && decide (a % 4 < 2))

/-- Memory is in its canonical form and lists only bytes that exist. -/
def State.memLegal (s : State) : Bool := Memory.wf s.mem && s.mem.all fun c => s.stores c.1

/-- ERRCODE is 0 exactly while ERR is 0, and at most 5 (60_exceptions.md R401). -/
def State.errorLegal (s : State) : Bool :=
  decide (s.status.err = false ↔ s.status.errcode = 0#4) && decide (s.status.errcode.toNat ≤ 5)

/-- What acceptance established and nothing changes while the job runs: DONE and ABORTED 0, and the job's checks passed
(43_commands.md R357, 10_state.md R56). -/
def State.jobLegal (s : State) : Bool :=
  match s.engine with
  | .idle => true
  | .busy j =>
    !s.status.done && !s.status.aborted
      && (!j.demodulates || (decide (1000 ≤ s.sampleRate) && decide (s.sampleCount ≤ s.sampleCap)))
      && (decide (j ≠ .frame) || decide (s.bitLength ≤ s.bitCap))

/-- The next draw is a fresh one: no RAM stands at its number (log 8). -/
def State.drawsFresh (s : State) : Bool :=
  decide (s.epochs.sample < s.epochs.next) && decide (s.epochs.bit < s.epochs.next)
    && decide (s.epochs.frame < s.epochs.next) && decide (s.epochs.desc < s.epochs.next)

/-- The invariant of the machine. -/
def State.legal (s : State) : Bool := s.memLegal && s.errorLegal && s.jobLegal && s.drawsFresh

/-- The offset is backed, from the tables of 20_memory.md R101 and 10_state.md R32, for a given SAMPLE_CAP. -/
def offsetBacked (sampleCap a : Nat) : Bool :=
  decide (a ∈ [0x000, 0x004, 0x008, 0x010, 0x014, 0x018, 0x020, 0x024, 0x028, 0x02C, 0x030, 0x034, 0x038, 0x03C, 0x040,
      0x044, 0x048, 0x04C, 0x050])
    || (decide (0x0400000 ≤ a) && decide (a < 0x0400000 + 4 * (sampleCap / 32)))
    || (decide (0x0800000 ≤ a) && decide (a < 0x0800000 + sampleCap / 8))
    || (decide (0x1000000 ≤ a) && decide (a < 0x1000000 + 32 * (sampleCap / 8)))
    || (decide (0x2000000 ≤ a) && decide (a < 0x2000000 + 4 * sampleCap))

/-- The locations each job writes, as 20_memory.md R118 lists them. -/
def outputOf : Job → Location → Bool
  | .run, .reg r => decide (r ∈ [Reg.bitcount, .ncand, .naccept, .ncrcOk, .nrejShort, .nrejInact, .ndropLen, .ndropAddr,
      .nframeBytes, .tailbits])
  | .run, .ram m _ => decide (m ∈ [Ram.bit, .frame, .desc])
  | .demod, .reg r => decide (r = .bitcount)
  | .demod, .ram m _ => decide (m = .bit)
  | .frame, .reg r => decide (r ∈ [Reg.ncand, .naccept, .ncrcOk, .nrejShort, .nrejInact, .ndropLen, .ndropAddr,
      .nframeBytes, .tailbits])
  | .frame, .ram m _ => decide (m ∈ [Ram.frame, .desc])

/-- The instruction that starts a job. -/
def Job.instr : Job → Instr
  | .run => .run
  | .demod => .demod
  | .frame => .frame

/-- The streaming form of destuffing (42_destuff_crc.md R301), `ones` being `cnt`. -/
def destuffStream : Nat → Bits → Bits
  | _, [] => []
  | ones, true :: bs => true :: destuffStream (ones + 1) bs
  | ones, false :: bs => if 5 ≤ ones then destuffStream 0 bs else false :: destuffStream 0 bs

/-- `pat` stands in `x` at index `j` (00_scope.md R9). -/
abbrev standsAt (pat x : Bits) (j : Nat) : Prop := (x.drop j).take pat.length = pat

/-- One byte of a byte array with one of its bits flipped. -/
def flipBit (bytes : List Byte) (j t : Nat) : List Byte := bytes.set j (bytes.getD j 0#8 ^^^ BitVec.twoPow 8 t)

end Sys2Proof.Machine
end

