-- ==== Sys2Proof/Certificates/Slice0/Obligations.lean ====
section
/-! DEFINITION. The statements for the provers. A statement whose docstring says "model's choice" rests on a row of the
assumption log there named; the others say what a rule of spec/ says. -/

open Sys2Proof Sys2Proof.Machine

/-! ## Encoding -/

/-- No field of a well-formed instruction is lost between the instruction and its transaction record. The record's layout
is the model's choice (log 1); the command words are 30_encoding.md R152. -/
def Obligations.DecodeOfEncodedRecordIsTheInstruction : Prop :=
  ∀ i : Instr, i.wellFormed = true → decodeBits (encodeBits i) = i

/-- Encoding the decoded instruction gives the transaction back; a read carries no WDATA (30_encoding.md R150: "writes
only"). -/
def Obligations.EncodeOfDecodedTransactionIsTheTransaction : Prop :=
  ∀ t : BusTransaction, encode (decode t) = { t with wdata := if t.we then t.wdata else 0#32 }

/-- Every record decodes to a well-formed instruction, so a write of a command word to CMD never decodes to BUS_WRITE32
(30_encoding.md R150 to R152). The layout of a record and the seven bits it has for SIZE are the model's choice (log 1,
log 16). -/
def Obligations.DecodedRecordsAreWellFormed : Prop := ∀ b : BitVec 66, (decodeBits b).wellFormed = true

/-- 30_encoding.md R152: the command opcode map, on the whole word. -/
def Obligations.CommandWordsDecodeAsTheOpcodeMap : Prop :=
  ∀ v : Word, decodeCommand v =
    if v = 0x00000000#32 then .ok .nop
    else if v = 0x00000001#32 then .ok .run
    else if v = 0x00000002#32 then .ok .demod
    else if v = 0x00000003#32 then .ok .frame
    else if v = 0x00000004#32 then .ok .abort
    else if v.extractLsb' 4 28 = 0#28 then .error .reservedOpcode
    else .error .reservedBits

/-- Words of the opcode table, and two transaction records written out field by field (the records' layout is the model's
choice, log 1, and so is the reading of a 32-bit table word as a write to CMD, log 2). -/
def Obligations.WrittenOutWordsDecode : Prop :=
  decodeTableWord 32 0x00000000 = some .nop ∧ decodeTableWord 32 0x00000001 = some .run ∧
  decodeTableWord 32 0x00000002 = some .demod ∧ decodeTableWord 32 0x00000003 = some .frame ∧
  decodeTableWord 32 0x00000004 = some .abort ∧
  decodeTableWord 8 0x0 = some (.busRead32 4 0x000#26) ∧ decodeTableWord 8 0x1 = some (.busWrite32 4 0x000#26 0#32) ∧
  decodeBits 0x7d0000002001#66 = .busWrite32 4 0x020#26 8000#32 ∧
  decodeBits 0x200000400#66 = .busRead32 4 0x2000004#26 ∧
  decodeBits 0x40000150d#66 = .busWrite32 2 0x015#26 1#32

/-! ## The step -/

/-- A transaction at the head of the schedule is decoded and run, and only the head of the schedule is taken; so is the
transaction of a well-formed instruction, and the one a table word places. That the host's transactions stand in a
schedule is the model's choice (log 3). -/
def Obligations.StepRunsTheDecodedTransaction : Prop :=
  (∀ (s : State) (t : BusTransaction) (rest : List Event), s.schedule = .host t :: rest →
    step s = exec (decode t) { s with schedule := rest }) ∧
  (∀ (s : State) (i : Instr) (rest : List Event), i.wellFormed = true → s.schedule = .host (encode i) :: rest →
    step s = exec i { s with schedule := rest }) ∧
  ∀ (s : State) (nbits w : Nat), step (s.withFetchWord nbits w) = exec (decode (tableTransaction nbits w)) s

/-- The engine's turn: an idle engine does nothing; a running job completes, EngineState becomes IDLE and DONE 1, and no
input register, no other flag, no answer of a transaction and no draw changes (43_commands.md R358). That the turn stands
in the schedule, and comes when the schedule is empty, is the model's choice (log 3, log 4). -/
def Obligations.EngineTurnCompletesTheRunningJob : Prop :=
  ∀ s : State, (s.schedule = [] ∨ ∃ rest, s.schedule = .engine :: rest) →
    (s.engine = .idle → step s = .next { s with schedule := s.schedule.tail }) ∧
    ∀ j, s.engine = .busy j → ∃ t, step s = .next t ∧
      t = { s with
        engine := .idle, status := { s.status with done := true }, schedule := s.schedule.tail,
        mem := t.mem, bitcount := t.bitcount, counters := t.counters } ∧
      (j = .demod → t.counters = s.counters) ∧ (j = .frame → t.bitcount = s.bitcount)

/-- 40_demodulator.md R211, R212: a completed DEMOD puts the demodulated bits into bit RAM and their number into BITCOUNT,
fills the last word with zeros, and writes nothing else. -/
def Obligations.CompletedDemodWritesTheDemodulatedBits : Prop :=
  ∀ s : State, s.nextEvent = .engine → s.engine = .busy .demod → 1000 ≤ s.sampleRate → s.sampleCount ≤ s.sampleCap →
    ∃ t, step s = .next t ∧
      t.bitLength = (demodulate s.sampleRate s.threshold s.samples).length ∧
      (∀ k < t.bitLength, t.bitAt k = (demodulate s.sampleRate s.threshold s.samples).getD k false) ∧
      (∀ k, t.bitLength ≤ k → k < 32 * ((t.bitLength + 31) / 32) → t.bitAt k = false) ∧
      (∀ m a, a < 0x0400000 ∨ 0x0400000 + 4 * ((t.bitLength + 31) / 32) ≤ a → t.byteAt m a = s.byteAt m a) ∧
      t = { s with
        engine := .idle, status := { s.status with done := true }, schedule := s.schedule.tail,
        mem := t.mem, bitcount := t.bitcount }

/-- 41_frame_extractor.md R261, 42_destuff_crc.md R317: a completed FRAME writes one descriptor per candidate, the
candidates' bytes, zeros up to the end of the last frame RAM word, the nine totals, and nothing else. -/
def Obligations.CompletedFrameWritesItsReport : Prop :=
  ∀ s : State, s.nextEvent = .engine → s.engine = .busy .frame → s.bitLength ≤ s.bitCap →
    ∃ t, step s = .next t ∧
      (∀ n < (extractFrames s.inputBits).descs.length, ∀ w < 8,
        t.wordAt .desc (0x1000000 + 32 * n + 4 * w)
          = (((extractFrames s.inputBits).descs.map Descriptor.words).getD n []).getD w 0#32) ∧
      (∀ j < (extractFrames s.inputBits).bytes.length,
        t.byteAt .frame (0x0800000 + j) = (extractFrames s.inputBits).bytes.getD j 0#8) ∧
      (∀ j, (extractFrames s.inputBits).bytes.length ≤ j → j < 4 * (((extractFrames s.inputBits).bytes.length + 3) / 4) →
        t.byteAt .frame (0x0800000 + j) = 0#8) ∧
      (∀ m a,
        (a < 0x0800000 ∨ 0x0800000 + 4 * (((extractFrames s.inputBits).bytes.length + 3) / 4) ≤ a) →
        (a < 0x1000000 ∨ 0x1000000 + 32 * (extractFrames s.inputBits).descs.length ≤ a) →
        t.byteAt m a = s.byteAt m a) ∧
      t.counters.ncand.toNat = (extractFrames s.inputBits).descs.length ∧
      t.counters.naccept.toNat = countClass .accept (extractFrames s.inputBits).descs ∧
      t.counters.ncrcOk.toNat = countGood (extractFrames s.inputBits).descs ∧
      t.counters.nrejShort.toNat = countClass .rejShort (extractFrames s.inputBits).descs ∧
      t.counters.nrejInact.toNat = countClass .rejInactive (extractFrames s.inputBits).descs ∧
      t.counters.ndropLen.toNat = countClass .dropLen (extractFrames s.inputBits).descs ∧
      t.counters.ndropAddr.toNat = countClass .dropAddr (extractFrames s.inputBits).descs ∧
      t.counters.nframeBytes.toNat = (extractFrames s.inputBits).bytes.length ∧
      t.counters.tailbits.toNat = (extractFrames s.inputBits).tail ∧
      t = { s with
        engine := .idle, status := { s.status with done := true }, schedule := s.schedule.tail,
        mem := t.mem, counters := t.counters }

/-- A completed RUN is the whole pipeline: BITCOUNT and bit RAM hold the demodulated bits, and descriptor RAM, frame RAM
and the counters report the frames of exactly those bits (43_commands.md R352, 41_frame_extractor.md R250). The last bit
RAM word and the last frame RAM word are filled with zeros, and every byte outside the words written is as it was
(40_demodulator.md R212, 42_destuff_crc.md R317, 41_frame_extractor.md R261), sample RAM too (20_memory.md R103). -/
def Obligations.CompletedRunReportsTheFramesOfItsSamples : Prop :=
  ∀ s : State, s.nextEvent = .engine → s.engine = .busy .run → 1000 ≤ s.sampleRate → s.sampleCount ≤ s.sampleCap →
    ∃ t bits r, bits = demodulate s.sampleRate s.threshold s.samples ∧ r = extractFrames bits ∧ step s = .next t ∧
      t.bitLength = bits.length ∧ (∀ k < bits.length, t.bitAt k = bits.getD k false) ∧
      (∀ k, bits.length ≤ k → k < 32 * ((bits.length + 31) / 32) → t.bitAt k = false) ∧
      (∀ n < r.descs.length, ∀ w < 8,
        t.wordAt .desc (0x1000000 + 32 * n + 4 * w) = ((r.descs.map Descriptor.words).getD n []).getD w 0#32) ∧
      (∀ j < r.bytes.length, t.byteAt .frame (0x0800000 + j) = r.bytes.getD j 0#8) ∧
      (∀ j, r.bytes.length ≤ j → j < 4 * ((r.bytes.length + 3) / 4) → t.byteAt .frame (0x0800000 + j) = 0#8) ∧
      t.counters = r.counters ∧
      (∀ m a,
        (a < 0x0400000 ∨ 0x0400000 + 4 * ((bits.length + 31) / 32) ≤ a) →
        (a < 0x0800000 ∨ 0x0800000 + 4 * ((r.bytes.length + 3) / 4) ≤ a) →
        (a < 0x1000000 ∨ 0x1000000 + 32 * r.descs.length ≤ a) → t.byteAt m a = s.byteAt m a) ∧
      (∀ a, Ram.sample.holds a = true → t.byteAt .sample a = s.byteAt .sample a) ∧
      t = { s with
        engine := .idle, status := { s.status with done := true }, schedule := s.schedule.tail,
        mem := t.mem, bitcount := t.bitcount, counters := t.counters }

/-- One step more than there are events brings every machine to an idle engine with nothing scheduled
(70_reset_and_hazards.md R460, "The completion step of a running job is taken eventually"). The schedule, and the engine's
turn when it is empty, are the model's choice (log 3, log 4). -/
def Obligations.EveryScheduleEndsWithAnIdleEngine : Prop :=
  ∀ s : State, ∃ t, Sys2Proof.core.run (s.schedule.length + 1) s = .next t ∧ t.engine = .idle ∧ t.schedule = []

/-- No step of any state stops: the block has no traps, and no data, no command word and no address ends a run
(60_exceptions.md R400, R419). -/
def Obligations.StepNeverStops : Prop := ∀ s : State, ∃ t, step s = .next t

/-! ## Reset -/

/-- After the reset event, whatever ran, every register reads its reset value, irq is 0 and every RAM byte is a draw
(10_state.md R59, 70_reset_and_hazards.md R451). That the draw is `Config.ramDraw` of the next draw number is the model's
choice (log 7, log 8), and so is what the event keeps, SAMPLE_CAP and the rest of the schedule (log 3, log 12). -/
def Obligations.ResetEventGivesTheResetValues : Prop :=
  ∀ (s : State) (rest : List Event), s.schedule = .reset :: rest → ∃ t, step s = .next t ∧
    t.engine = .idle ∧ t.irq = false ∧
    t.readReg .id = 0x46534B44#32 ∧ t.readReg .version = 1#32 ∧ t.readReg .cap = BitVec.ofNat 32 s.sampleCap ∧
    t.readReg .ctrl = 0#32 ∧ t.readReg .cmd = 0#32 ∧ t.readReg .status = 0#32 ∧ t.readReg .sr = 0#32 ∧
    t.readReg .thresh = 1073741#32 ∧ t.readReg .nsamp = 0#32 ∧ t.readReg .bitcount = 0#32 ∧
    t.readReg .ncand = 0#32 ∧ t.readReg .naccept = 0#32 ∧ t.readReg .ncrcOk = 0#32 ∧ t.readReg .nrejShort = 0#32 ∧
    t.readReg .nrejInact = 0#32 ∧ t.readReg .ndropLen = 0#32 ∧ t.readReg .ndropAddr = 0#32 ∧
    t.readReg .nframeBytes = 0#32 ∧ t.readReg .tailbits = 0#32 ∧
    (∀ m a, t.byteAt m a = Config.ramDraw s.epochs.next a) ∧ t.sampleCap = s.sampleCap ∧ t.schedule = rest

/-- The state the host starts from reads as 10_state.md R59; CAP at the reference value and the draw number 0 are the
model's choice (log 6, log 7). -/
def Obligations.ResetStateReadsAsTheTable : Prop :=
  Reg.all.map State.reset.readReg =
    [0x46534B44#32, 1#32, 0x00400000#32, 0#32, 0#32, 0#32, 0#32, 0x0010624D#32, 0#32, 0#32, 0#32, 0#32, 0#32, 0#32, 0#32,
      0#32, 0#32, 0#32, 0#32] ∧
  State.reset.engine = .idle ∧ State.reset.irq = false ∧
  ∀ m a, State.reset.byteAt m a = Config.ramDraw 0 a

/-! ## Commands -/

/-- 43_commands.md R351: NOP changes no register and no RAM word, running job or not (RESP of the transaction is 0, log
10). -/
def Obligations.NopChangesNothing : Prop := ∀ s : State, exec .nop s = .next { s with resp := false }

/-- An idle engine whose operands are legal accepts RUN, DEMOD and FRAME: BUSY(job), DONE and ABORTED 0, and nothing else
(43_commands.md R357). -/
def Obligations.LegalJobsAreAccepted : Prop :=
  ∀ s : State, s.engine = .idle →
    (1000 ≤ s.sampleRate → s.sampleCount ≤ s.sampleCap →
      exec .run s = .next { s with
        engine := .busy .run, status := { s.status with done := false, aborted := false }, resp := false } ∧
      exec .demod s = .next { s with
        engine := .busy .demod, status := { s.status with done := false, aborted := false }, resp := false }) ∧
    (s.bitLength ≤ s.bitCap →
      exec .frame s = .next { s with
        engine := .busy .frame, status := { s.status with done := false, aborted := false }, resp := false })

/-- 43_commands.md R357 with 60_exceptions.md R402: the checks of RUN, DEMOD and FRAME in their order; the first that fails
records its code if ERR is 0, and nothing else happens. -/
def Obligations.StartChecksComeInTheirOrder : Prop :=
  ∀ s : State,
    let raise : BitVec 4 → State := fun code =>
      if s.status.err then { s with resp := false }
      else { s with status := { s.status with err := true, errcode := code }, resp := false }
    let accept : Job → State := fun j =>
      { s with engine := .busy j, status := { s.status with done := false, aborted := false }, resp := false }
    exec .run s = .next (if s.engine ≠ .idle then raise 2#4 else if s.sampleRate < 1000 then raise 3#4
      else if s.sampleCount > s.sampleCap then raise 4#4 else accept .run) ∧
    exec .demod s = .next (if s.engine ≠ .idle then raise 2#4 else if s.sampleRate < 1000 then raise 3#4
      else if s.sampleCount > s.sampleCap then raise 4#4 else accept .demod) ∧
    exec .frame s = .next (if s.engine ≠ .idle then raise 2#4
      else if s.bitLength > s.bitCap then raise 5#4 else accept .frame)

/-- 30_encoding.md R153, R154: a word of 5 or more written to CMD, that is one with OPC 0x5 to 0xF or with any of bits
[31:4] set, raises ILLEGAL_CMD, running job or not, and has no other effect. -/
def Obligations.IllegalCommandWordsRaiseIllegalCmd : Prop :=
  ∀ (s : State) (v : Word), v.extractLsb' 4 28 ≠ 0#28 ∨ 5 ≤ (v.extractLsb' 0 4).toNat →
    exec (.busWrite32 4 0x014#26 v) s = .next
      (if s.status.err then { s with resp := false }
       else { s with status := { s.status with err := true, errcode := 1#4 }, resp := false })

/-- A BUS_WRITE32 of a command's word to CMD does what the command does (43_commands.md R350, R360). -/
def Obligations.CommandWriteDoesWhatTheCommandDoes : Prop :=
  ∀ (s : State) (c : Command), exec (.busWrite32 4 0x014#26 c.word) s = exec c.instr s

/-- ABORT ends a running job, leaves its inputs and every location it does not write, and makes each location it writes a
draw; while idle it has no effect (43_commands.md R355). Which draw each location becomes, the draw number used up, and the
taking of whole RAMs are the model's choice (log 7, log 8). -/
def Obligations.AbortMakesTheOutputsDraws : Prop :=
  (∀ s : State, s.engine = .idle → exec .abort s = .next { s with resp := false }) ∧
  ∀ (s : State) (j : Job), s.engine = .busy j → ∃ t, exec .abort s = .next t ∧
    t.bitcount = (if j = .frame then s.bitcount else (Config.registerDraw s.epochs.next 0x02C).setWidth 23) ∧
    t.counters = (if j = .demod then s.counters else
      { ncand := Config.registerDraw s.epochs.next 0x030, naccept := Config.registerDraw s.epochs.next 0x034,
        ncrcOk := Config.registerDraw s.epochs.next 0x038, nrejShort := Config.registerDraw s.epochs.next 0x03C,
        nrejInact := Config.registerDraw s.epochs.next 0x040, ndropLen := Config.registerDraw s.epochs.next 0x044,
        ndropAddr := Config.registerDraw s.epochs.next 0x048, nframeBytes := Config.registerDraw s.epochs.next 0x04C,
        tailbits := Config.registerDraw s.epochs.next 0x050 }) ∧
    (∀ m a, m.holds a = true → t.byteAt m a =
      if outputOf j (.ram m a) then Config.ramDraw s.epochs.next a else s.byteAt m a) ∧
    t.epochs.next = s.epochs.next + 1 ∧
    t = { s with
      engine := .idle, status := { s.status with aborted := true }, resp := false,
      bitcount := t.bitcount, counters := t.counters, mem := t.mem, epochs := t.epochs }

/-! ## Bus reads -/

/-- While no job runs a read of each register returns its value (43_commands.md R359, 10_state.md R33 to R52) and changes
nothing but the answer. -/
def Obligations.IdleRegisterReadsReturnTheRegister : Prop :=
  ∀ s : State, s.engine = .idle → ∀ p ∈
    [(0x000#26, 0x46534B44#32), (0x004#26, 1#32), (0x008#26, BitVec.ofNat 32 s.sampleCap),
      (0x010#26, if s.irqEn then 1#32 else 0#32), (0x014#26, 0#32), (0x020#26, s.sr.setWidth 32),
      (0x024#26, s.thresh.setWidth 32), (0x028#26, s.nsamp.setWidth 32), (0x02C#26, s.bitcount.setWidth 32),
      (0x030#26, s.counters.ncand), (0x034#26, s.counters.naccept), (0x038#26, s.counters.ncrcOk),
      (0x03C#26, s.counters.nrejShort), (0x040#26, s.counters.nrejInact), (0x044#26, s.counters.ndropLen),
      (0x048#26, s.counters.ndropAddr), (0x04C#26, s.counters.nframeBytes), (0x050#26, s.counters.tailbits)],
    exec (.busRead32 4 p.1) s = .next { s with rdata := p.2, resp := false }

/-- A read of STATUS, running job or not, returns BUSY, DONE, ERR, ABORTED, WERR and ERRCODE in their places and 0 in the
reserved ones (10_state.md R38). -/
def Obligations.StatusReadsShowTheFlags : Prop :=
  ∀ s : State, ∃ v : Word, exec (.busRead32 4 0x018#26) s = .next { s with rdata := v, resp := false } ∧
    v.getLsbD 0 = decide (s.engine ≠ .idle) ∧ v.getLsbD 1 = s.status.done ∧ v.getLsbD 2 = s.status.err ∧
    v.getLsbD 3 = s.status.aborted ∧ v.getLsbD 4 = s.status.werr ∧ v.extractLsb' 5 3 = 0#3 ∧
    v.extractLsb' 8 4 = s.status.errcode ∧ v.extractLsb' 12 20 = 0#20

/-- While no job runs a read of a RAM word returns it: a sample sign-extended, any other word with its lowest byte in the
lowest lane (43_commands.md R359, 20_memory.md R104 to R107). That a sample word nothing has written since reset also reads
as a sign-extended draw of 16 bits, and not as a draw of the whole word, is the model's choice (log 11). -/
def Obligations.IdleRamReadsReturnTheWord : Prop :=
  ∀ s : State, s.engine = .idle →
    (∀ i < s.sampleCap, exec (.busRead32 4 (BitVec.ofNat 26 (0x2000000 + 4 * i))) s =
      .next { s with
        rdata := (s.byteAt .sample (0x2000000 + 4 * i + 1) ++ s.byteAt .sample (0x2000000 + 4 * i)).signExtend 32,
        resp := false }) ∧
    (∀ w < s.bitCap / 32, exec (.busRead32 4 (BitVec.ofNat 26 (0x0400000 + 4 * w))) s =
      .next { s with rdata := s.wordAt .bit (0x0400000 + 4 * w), resp := false }) ∧
    (∀ w < s.frameCap / 4, exec (.busRead32 4 (BitVec.ofNat 26 (0x0800000 + 4 * w))) s =
      .next { s with rdata := s.wordAt .frame (0x0800000 + 4 * w), resp := false }) ∧
    (∀ n < s.descCap, ∀ w < 8, exec (.busRead32 4 (BitVec.ofNat 26 (0x1000000 + 32 * n + 4 * w))) s =
      .next { s with rdata := s.wordAt .desc (0x1000000 + 32 * n + 4 * w), resp := false })

/-- While a job runs a read of a location it writes returns a fresh draw, a read of any other backed location its value
(20_memory.md R118). The draw's value and number are the model's choice (log 8), so is the reading of R118 over the order
of the tests in 43_commands.md R359 for BITCOUNT and the counters (log 9), and so is the sign-extended read of a sample word
that nothing has written (log 11). -/
def Obligations.BusyReadsOfOutputsAreDraws : Prop :=
  ∀ (s : State) (j : Job) (addr : Addr) (l : Location), s.engine = .busy j → s.locate 4 addr = some l →
    exec (.busRead32 4 addr) s =
      if outputOf j l then
        .next { s with
          rdata := Config.readDraw s.epochs.next, resp := false, epochs := { s.epochs with next := s.epochs.next + 1 } }
      else .next { s with rdata := s.readLocation l, resp := false }

/-- A read, of any size and address, changes nothing of the block: only the answer, and the number of the next draw (which
is the model's own, log 8). So every byte of every RAM reads as before (20_memory.md R114). -/
def Obligations.ReadsHaveNoSideEffect : Prop :=
  ∀ (s : State) (size : Nat) (addr : Addr), ∃ t, exec (.busRead32 size addr) s = .next t ∧
    t = { s with rdata := t.rdata, resp := t.resp, epochs := { s.epochs with next := t.epochs.next } } ∧
    ∀ m a, t.byteAt m a = s.byteAt m a

/-- 20_memory.md R111: an access of a size other than 4, at a misaligned or at an unbacked offset, completes with an error
response; the read returns 0 and neither changes anything else. No other access does. -/
def Obligations.UnsupportedAccessesGetAnErrorResponse : Prop :=
  ∀ (s : State) (size : Nat) (addr : Addr) (v : Word),
    if size ≠ 4 ∨ addr.toNat % 4 ≠ 0 ∨ offsetBacked s.sampleCap addr.toNat = false then
      exec (.busRead32 size addr) s = .next { s with rdata := 0#32, resp := true } ∧
      exec (.busWrite32 size addr v) s = .next { s with resp := true }
    else
      (∃ t, exec (.busRead32 size addr) s = .next t ∧ t.resp = false) ∧
      ∃ t, exec (.busWrite32 size addr v) s = .next t ∧ t.resp = false

/-- 10_state.md R53: the reserved register offsets. -/
def Obligations.ReservedRegisterOffsetsGetAnErrorResponse : Prop :=
  ∀ (s : State) (addr : Addr) (v : Word),
    addr = 0x00C#26 ∨ addr = 0x01C#26 ∨ (0x054 ≤ addr.toNat ∧ addr.toNat ≤ 0xFFC) →
    exec (.busRead32 4 addr) s = .next { s with rdata := 0#32, resp := true } ∧
    exec (.busWrite32 4 addr v) s = .next { s with resp := true }

/-! ## Bus writes -/

/-- A write to a read-write register stores its field and no other bit, and a read returns the field (30_encoding.md R157,
10_state.md R36, R40 to R43); CTRL is written running job or not. -/
def Obligations.RegisterWritesStoreTheirField : Prop :=
  (∀ (s : State) (v : Word), exec (.busWrite32 4 0x010#26 v) s = .next { s with irqEn := v.getLsbD 0, resp := false } ∧
    ({ s with irqEn := v.getLsbD 0 } : State).readReg .ctrl = v &&& 0x00000001#32) ∧
  ∀ (s : State) (v : Word), s.engine = .idle →
    exec (.busWrite32 4 0x020#26 v) s = .next { s with sr := v.extractLsb' 0 18, resp := false } ∧
    exec (.busWrite32 4 0x024#26 v) s = .next { s with thresh := v.extractLsb' 0 22, resp := false } ∧
    exec (.busWrite32 4 0x028#26 v) s = .next { s with nsamp := v.extractLsb' 0 23, resp := false } ∧
    exec (.busWrite32 4 0x02C#26 v) s = .next { s with bitcount := v.extractLsb' 0 23, resp := false } ∧
    ({ s with sr := v.extractLsb' 0 18 } : State).readReg .sr = v &&& 0x0003FFFF#32 ∧
    ({ s with thresh := v.extractLsb' 0 22 } : State).readReg .thresh = v &&& 0x003FFFFF#32 ∧
    ({ s with nsamp := v.extractLsb' 0 23 } : State).readReg .nsamp = v &&& 0x007FFFFF#32 ∧
    ({ s with bitcount := v.extractLsb' 0 23 } : State).readReg .bitcount = v &&& 0x007FFFFF#32

/-- 10_state.md R39: the W1C write of STATUS, running job or not. -/
def Obligations.StatusWriteClearsTheWrittenOnes : Prop :=
  ∀ (s : State) (v : Word), exec (.busWrite32 4 0x018#26 v) s = .next { s with
    status :=
      { done := if v.getLsbD 1 then false else s.status.done
        err := if v.getLsbD 2 then false else s.status.err
        aborted := if v.getLsbD 3 then false else s.status.aborted
        werr := if v.getLsbD 4 then false else s.status.werr
        errcode := if v.getLsbD 2 then 0#4 else s.status.errcode }
    resp := false }

/-- A write to a read-only register, or to a word of frame or descriptor RAM, completes normally and changes nothing,
WERR included, running job or not (10_state.md R54, 20_memory.md R108). -/
def Obligations.WritesToReadOnlyLocationsAreIgnored : Prop :=
  ∀ (s : State) (v : Word),
    (∀ addr ∈ [0x000#26, 0x004#26, 0x008#26, 0x030#26, 0x034#26, 0x038#26, 0x03C#26, 0x040#26, 0x044#26, 0x048#26,
      0x04C#26, 0x050#26], exec (.busWrite32 4 addr v) s = .next { s with resp := false }) ∧
    (∀ w < s.frameCap / 4,
      exec (.busWrite32 4 (BitVec.ofNat 26 (0x0800000 + 4 * w)) v) s = .next { s with resp := false }) ∧
    ∀ n < s.descCap, ∀ w < 8,
      exec (.busWrite32 4 (BitVec.ofNat 26 (0x1000000 + 32 * n + 4 * w)) v) s = .next { s with resp := false }

/-- 20_memory.md R119: while a job runs, writes to SR, THRESH, NSAMP, BITCOUNT, sample RAM and bit RAM only set WERR;
writes to CTRL, STATUS and CMD take effect as when idle. -/
def Obligations.BusyWritesToInputsOnlySetWerr : Prop :=
  ∀ (s : State) (j : Job) (v : Word), s.engine = .busy j →
    (∀ addr ∈ [0x020#26, 0x024#26, 0x028#26, 0x02C#26], exec (.busWrite32 4 addr v) s =
      .next { s with status := { s.status with werr := true }, resp := false }) ∧
    (∀ i < s.sampleCap, exec (.busWrite32 4 (BitVec.ofNat 26 (0x2000000 + 4 * i)) v) s =
      .next { s with status := { s.status with werr := true }, resp := false }) ∧
    (∀ w < s.bitCap / 32, exec (.busWrite32 4 (BitVec.ofNat 26 (0x0400000 + 4 * w)) v) s =
      .next { s with status := { s.status with werr := true }, resp := false }) ∧
    exec (.busWrite32 4 0x010#26 v) s = .next { s with irqEn := v.getLsbD 0, resp := false } ∧
    exec (.busWrite32 4 0x018#26 v) s = .next { s with status := s.status.w1c v, resp := false } ∧
    exec (.busWrite32 4 0x014#26 v) s = .next { s.onCmd v with resp := false }

/-- 20_memory.md R104: an idle write of sample `i` stores the low 16 bits, the read returns them sign-extended, the
operand is that number, and no other stored byte changes. -/
def Obligations.SampleWritesStoreSixteenBits : Prop :=
  ∀ (s : State) (i : Nat) (v : Word), s.engine = .idle → i < s.sampleCap →
    ∃ t, exec (.busWrite32 4 (BitVec.ofNat 26 (0x2000000 + 4 * i)) v) s = .next t ∧
      t.sampleAt i = (v.extractLsb' 0 16).toInt ∧ -32768 ≤ t.sampleAt i ∧ t.sampleAt i ≤ 32767 ∧
      exec (.busRead32 4 (BitVec.ofNat 26 (0x2000000 + 4 * i))) t =
        .next { t with rdata := (v.extractLsb' 0 16).signExtend 32, resp := false } ∧
      (∀ m a, a < 0x2000000 + 4 * i ∨ 0x2000000 + 4 * i + 2 ≤ a → t.byteAt m a = s.byteAt m a) ∧
      t = { s with mem := t.mem, resp := false }

/-- 20_memory.md R105: an idle write of bit RAM word `w` stores all 32 bits as the bits 32w to 32w + 31, the read returns
them, and no other stored byte changes. -/
def Obligations.BitWritesStoreTheWord : Prop :=
  ∀ (s : State) (w : Nat) (v : Word), s.engine = .idle → w < s.bitCap / 32 →
    ∃ t, exec (.busWrite32 4 (BitVec.ofNat 26 (0x0400000 + 4 * w)) v) s = .next t ∧
      (∀ b < 32, t.bitAt (32 * w + b) = v.getLsbD b) ∧
      exec (.busRead32 4 (BitVec.ofNat 26 (0x0400000 + 4 * w))) t = .next { t with rdata := v, resp := false } ∧
      (∀ m a, a < 0x0400000 + 4 * w ∨ 0x0400000 + 4 * w + 4 ≤ a → t.byteAt m a = s.byteAt m a) ∧
      t = { s with mem := t.mem, resp := false }

/-- 20_memory.md R106: frame RAM byte `j` is byte lane `j mod 4` of the word at 0x080_0000 + 4*(j div 4), and the host
cannot write it. -/
def Obligations.FrameBytesStandInTheirLanes : Prop :=
  ∀ (s : State) (j : Nat), s.engine = .idle → j < s.frameCap →
    (∃ t, exec (.busRead32 4 (BitVec.ofNat 26 (0x0800000 + 4 * (j / 4)))) s = .next t ∧
      t.rdata.extractLsb' (8 * (j % 4)) 8 = s.byteAt .frame (0x0800000 + j)) ∧
    ∀ v, exec (.busWrite32 4 (BitVec.ofNat 26 (0x0800000 + 4 * (j / 4))) v) s = .next { s with resp := false }

/-! ## Rules over all instructions -/

/-- Every byte of every RAM reads as before after every instruction, but for the word a BUS_WRITE32 reaches and the RAMs
the running job writes when it is aborted (20_memory.md R108, 43_commands.md R355). -/
def Obligations.InstructionsLeaveTheOtherBytes : Prop :=
  ∀ (i : Instr) (s t : State) (m : Ram) (a : Nat), exec i s = .next t → m.holds a = true →
    (∀ size addr v m' b, i = .busWrite32 size addr v → s.locate size addr = some (.ram m' b) → a < b ∨ b + 4 ≤ a) →
    (∀ j, s.engine = .busy j → (i = .abort ∨ i = .busWrite32 4 0x014#26 4#32) → outputOf j (.ram m a) = false) →
    t.byteAt m a = s.byteAt m a

/-- While a job runs no instruction changes its inputs, its outputs or its kind, but for an ABORT, which ends it
(10_state.md R56, 20_memory.md R119). -/
def Obligations.RunningJobsAreNotDisturbed : Prop :=
  ∀ (i : Instr) (s t : State) (j : Job), s.engine = .busy j → exec i s = .next t →
    t.sr = s.sr ∧ t.thresh = s.thresh ∧ t.nsamp = s.nsamp ∧ t.capUnits = s.capUnits ∧
    (∀ a, Ram.sample.holds a = true → t.byteAt .sample a = s.byteAt .sample a) ∧
    ((t.engine = .busy j ∧ t.bitcount = s.bitcount ∧ t.counters = s.counters ∧ ∀ m a, t.byteAt m a = s.byteAt m a) ∨
      (t.engine = .idle ∧ t.status.aborted = true ∧ t.status.done = s.status.done ∧
        (i = .abort ∨ i = .busWrite32 4 0x014#26 4#32)))

/-- What sets each STATUS bit, over every step: BUSY the start commands, DONE completion, ERR a refused start or an illegal
word, ABORTED an ABORT of a running job, WERR a full-width write of an input while a job runs (10_state.md R38, "set by"). -/
def Obligations.StatusBitsAreSetOnlyByTheirCauses : Prop :=
  ∀ s t : State, step s = .next t →
    (s.engine = .idle → ∀ j, t.engine = .busy j → ∃ tr, s.nextEvent = .host tr ∧ decode tr = j.instr) ∧
    (s.status.done = false → t.status.done = true → s.nextEvent = .engine ∧ s.engine ≠ .idle) ∧
    (s.status.err = false → t.status.err = true → ∃ tr, s.nextEvent = .host tr ∧
      (decode tr ∈ [Instr.run, .demod, .frame] ∨ ∃ v : Word, 5 ≤ v.toNat ∧ decode tr = .busWrite32 4 0x014#26 v)) ∧
    (s.status.aborted = false → t.status.aborted = true → ∃ tr, s.nextEvent = .host tr ∧ decode tr = .abort ∧
      s.engine ≠ .idle) ∧
    (s.status.werr = false → t.status.werr = true → ∃ tr addr v, s.nextEvent = .host tr ∧
      decode tr = .busWrite32 4 addr v ∧ s.engine ≠ .idle ∧
      (addr ∈ [0x020#26, 0x024#26, 0x028#26, 0x02C#26] ∨
        (0x0400000 ≤ addr.toNat ∧ addr.toNat < 0x0400000 + 4 * (s.bitCap / 32)) ∨
        (0x2000000 ≤ addr.toNat ∧ addr.toNat < 0x2000000 + 4 * s.sampleCap)))

/-- What clears each STATUS bit, over every step (10_state.md R38, "cleared by"). -/
def Obligations.StatusBitsAreClearedOnlyByTheirCauses : Prop :=
  ∀ s t : State, step s = .next t → s.nextEvent ≠ .reset →
    (s.engine ≠ .idle → t.engine = .idle →
      s.nextEvent = .engine ∨ ∃ tr, s.nextEvent = .host tr ∧ decode tr = .abort) ∧
    (s.status.done = true → t.status.done = false → ∃ tr, s.nextEvent = .host tr ∧
      (decode tr ∈ [Instr.run, .demod, .frame] ∨
        ∃ v : Word, v.getLsbD 1 = true ∧ decode tr = .busWrite32 4 0x018#26 v)) ∧
    (s.status.err = true → t.status.err = false ∨ t.status.errcode ≠ s.status.errcode → ∃ (tr : BusTransaction) (v : Word),
      s.nextEvent = .host tr ∧ v.getLsbD 2 = true ∧ decode tr = .busWrite32 4 0x018#26 v) ∧
    (s.status.aborted = true → t.status.aborted = false → ∃ tr, s.nextEvent = .host tr ∧
      (decode tr ∈ [Instr.run, .demod, .frame] ∨
        ∃ v : Word, v.getLsbD 3 = true ∧ decode tr = .busWrite32 4 0x018#26 v)) ∧
    (s.status.werr = true → t.status.werr = false → ∃ (tr : BusTransaction) (v : Word),
      s.nextEvent = .host tr ∧ v.getLsbD 4 = true ∧ decode tr = .busWrite32 4 0x018#26 v)

/-- irq is IRQ_EN and (DONE or ERR); the completion of a job raises it when enabled, clearing DONE and ERR lowers it, and so
does the acceptance of a job, RUN, DEMOD or FRAME, while ERR is 0 (60_exceptions.md R404, R405). -/
def Obligations.IrqFollowsDoneAndErr : Prop :=
  (∀ s : State, s.irq = (s.irqEn && (s.status.done || s.status.err))) ∧
  (∀ s : State, s.nextEvent = .engine → s.engine ≠ .idle → s.irqEn = true → ∃ t, step s = .next t ∧ t.irq = true) ∧
  (∀ s : State, ∃ t, exec (.busWrite32 4 0x018#26 0x6#32) s = .next t ∧ t.irq = false ∧ t.irqEn = s.irqEn) ∧
  ∀ s : State, s.engine = .idle → s.status.err = false →
    (1000 ≤ s.sampleRate → s.sampleCount ≤ s.sampleCap →
      (∃ t, exec .run s = .next t ∧ t.engine = .busy .run ∧ t.irq = false) ∧
      ∃ t, exec .demod s = .next t ∧ t.engine = .busy .demod ∧ t.irq = false) ∧
    (s.bitLength ≤ s.bitCap → ∃ t, exec .frame s = .next t ∧ t.engine = .busy .frame ∧ t.irq = false)

/-- Every step keeps the invariant: memory in canonical form and only where bytes exist, ERRCODE 0 exactly while ERR is 0
and at most 5, a running job with DONE and ABORTED 0 and its checks passed, fresh draws ahead. So no job's output leaves
its RAM (40_demodulator.md R215, 41_frame_extractor.md R258, 42_destuff_crc.md R318). The canonical form of memory and the
draw numbers are the model's choice (log 7, log 8), and so are the two bytes a sample word stores (log 11). -/
def Obligations.EveryStepKeepsTheStateLegal : Prop :=
  ∀ s t : State, s.legal = true → step s = .next t → t.legal = true

/-- The invariant holds at reset, at the model's reference SAMPLE_CAP (log 6). -/
def Obligations.ResetStateIsLegal : Prop := State.reset.legal = true

/-! ## The demodulator -/

/-- 40_demodulator.md R203: the circular delay and multiply, index by index. -/
def Obligations.CorrelationIsTheCircularProduct : Prop :=
  ∀ (unit : Nat) (s : List Int), (correlate unit s).length = s.length ∧
    ∀ i < s.length, (correlate unit s).getD i 0
      = 2 * s.getD i 0 * s.getD (((i : Int) - (unit : Int)) % (s.length : Int)).toNat 0

/-- 40_demodulator.md R205: for every state a product is at most 2^31 and a window sum at most 262 * 2^31 < 2^40, so the
48-bit accumulator never wraps. -/
def Obligations.WindowSumsFitTheAccumulator : Prop :=
  ∀ s : State,
    (∀ x ∈ s.samples, -32768 ≤ x ∧ x ≤ 32767) ∧
    (∀ c ∈ correlate (s.sampleRate / 1000) s.samples, |c| ≤ 2 ^ 31) ∧
    ∀ w ∈ chunks (s.sampleRate / 1000) (correlate (s.sampleRate / 1000) s.samples),
      |w.sum| ≤ 262 * 2 ^ 31 ∧ |w.sum| < 2 ^ 40

/-- Sample `i` has the level of window `i div unit`, whose sum runs from `lo` to `min(N, lo + unit)`: 254 above T, 0 below
-T, 127 otherwise (40_demodulator.md R204, R206, R207). -/
def Obligations.LevelsAreTheLevelsOfTheirWindows : Prop :=
  ∀ (t unit : Nat) (c : List Int), 0 < unit → (levels t unit c).length = c.length ∧
    ∀ i < c.length, (levels t unit c).getD i 0#8 =
      (if ((c.drop (i / unit * unit)).take unit).sum > (t : Int) then 254#8
       else if ((c.drop (i / unit * unit)).take unit).sum < -(t : Int) then 0#8 else 127#8)

/-- 40_demodulator.md R208, R209, R210: a level sequence is its maximal runs, and all of them but the last are emitted, each
with its level and length; the bits of a stream are those of its emitted runs, in order: `rhe(rl * 300, SR)` bits for a run
of length `rl`, each 0 for a level below 127 and 1 otherwise. The levels are those of the correlation, both with the unit
`SR div 1000` (R201). -/
def Obligations.EmittedRunsAreAllRunsButTheLast : Prop :=
  (∀ rs : List (Byte × Nat), (∀ r ∈ rs, 0 < r.2) →
    (∀ n, n + 1 < rs.length → (rs.getD n (0#8, 0)).1 ≠ (rs.getD (n + 1) (0#8, 0)).1) →
    emittedRuns (rs.flatMap fun r => List.replicate r.2 r.1) = rs.dropLast) ∧
  (∀ ls : List Byte, ∃ rs : List (Byte × Nat), (∀ r ∈ rs, 0 < r.2) ∧
    (∀ n, n + 1 < rs.length → (rs.getD n (0#8, 0)).1 ≠ (rs.getD (n + 1) (0#8, 0)).1) ∧
    ls = rs.flatMap fun r => List.replicate r.2 r.1) ∧
  ∀ (sr t : Nat) (s : List Int) (rs : List (Byte × Nat)), (∀ r ∈ rs, 0 < r.2) →
    (∀ n, n + 1 < rs.length → (rs.getD n (0#8, 0)).1 ≠ (rs.getD (n + 1) (0#8, 0)).1) →
    levels t (sr / 1000) (correlate (sr / 1000) s) = rs.flatMap (fun r => List.replicate r.2 r.1) →
    demodulate sr t s = rs.dropLast.flatMap fun r =>
      List.replicate (rhe (r.2 * 300) sr) (if r.1.toNat < 127 then false else true)

/-- Every emitted run is a positive whole number of windows (40_demodulator.md R216, which the spec derives). -/
def Obligations.EmittedRunsAreWholeWindows : Prop :=
  ∀ (t unit : Nat) (c : List Int), 0 < unit → ∀ r ∈ emittedRuns (levels t unit c), 0 < r.2 ∧ r.2 % unit = 0

/-- `rhe` is the nearest integer to `n / d`, the even one on a tie (00_scope.md R10). -/
def Obligations.RheRoundsToNearestTiesToEven : Prop :=
  ∀ n d : Nat, 0 < d →
    |2 * (n : Int) - 2 * d * rhe n d| ≤ d ∧ (|2 * (n : Int) - 2 * d * rhe n d| = d → rhe n d % 2 = 0)

/-- A stream never gives more bits than it has samples, so bit RAM cannot overflow (40_demodulator.md R215, which the spec
derives). -/
def Obligations.DemodulatedBitsFitBitRam : Prop :=
  ∀ (sr t : Nat) (s : List Int), 1000 ≤ sr → (demodulate sr t s).length ≤ s.length

/-- What a RUN reports depends only on SR, THRESH, NSAMP and the samples 0 to N-1: two machines that agree on these report
the same bits, descriptors, bytes and counters, whatever else they hold (40_demodulator.md R200, 10_state.md R56). -/
def Obligations.RunDependsOnlyOnItsInputs : Prop :=
  ∀ s s' : State, s.engine = .busy .run → s'.engine = .busy .run → s.nextEvent = .engine → s'.nextEvent = .engine →
    s.sr = s'.sr → s.thresh = s'.thresh → s.nsamp = s'.nsamp → (∀ i < s.sampleCount, s.sampleAt i = s'.sampleAt i) →
    ∃ t t', step s = .next t ∧ step s' = .next t' ∧ t.bitcount = t'.bitcount ∧ t.counters = t'.counters ∧
      (∀ k < t.bitLength, t.bitAt k = t'.bitAt k) ∧
      (∀ n < t.counters.ncand.toNat, ∀ w < 8,
        t.wordAt .desc (0x1000000 + 32 * n + 4 * w) = t'.wordAt .desc (0x1000000 + 32 * n + 4 * w)) ∧
      ∀ j < t.counters.nframeBytes.toNat, t.byteAt .frame (0x0800000 + j) = t'.byteAt .frame (0x0800000 + j)

/-! ## The frame extractor and the field steps -/

/-- 41_frame_extractor.md R251, R253 (and R252): the bits are the candidates, each followed by its flag, and a tail of TAILBITS
bits; no flag stands earlier than a candidate's own, none stands in the tail, and each candidate starts where the last
flag ended. -/
def Obligations.FlagsCutTheBitsIntoCandidates : Prop :=
  ∀ b : Bits, (splitFlags b).2 ≤ b.length ∧
    b = (splitFlags b).1.flatMap (fun c => c.2 ++ [false, true, true, true, true, true, true, false])
      ++ b.drop (b.length - (splitFlags b).2) ∧
    (∀ c ∈ (splitFlags b).1, ∀ j < c.2.length,
      ¬ standsAt [false, true, true, true, true, true, true, false]
        (c.2 ++ [false, true, true, true, true, true, true, false]) j) ∧
    (∀ j, ¬ standsAt [false, true, true, true, true, true, true, false] (b.drop (b.length - (splitFlags b).2)) j) ∧
    ∀ n < (splitFlags b).1.length,
      ((splitFlags b).1.getD n (0, [])).1 = (((splitFlags b).1.take n).map fun c => c.2.length + 8).sum

/-- 41_frame_extractor.md R254, R255: a candidate of fewer than 8 bits is REJ_SHORT, one of 8 or more with fifteen
consecutive ones anywhere is REJ_INACTIVE; neither is destuffed nor puts bytes into frame RAM; every other goes to the
field steps. -/
def Obligations.ShortAndInactiveCandidatesAreRejected : Prop :=
  ∀ (c : Candidate) (off : Nat),
    (c.2.length < 8 → processCandidate c off =
      ({ cls := .rejShort, crcOk := false, resid := 0, candStart := c.1, candLen := c.2.length, dstufLen := 0,
         byteOff := off, nbytes := 0, crcCalc := 0#16, crcRx := 0#16 }, [])) ∧
    (8 ≤ c.2.length → (∃ j, standsAt (List.replicate 15 true) c.2 j) → processCandidate c off =
      ({ cls := .rejInactive, crcOk := false, resid := 0, candStart := c.1, candLen := c.2.length, dstufLen := 0,
         byteOff := off, nbytes := 0, crcCalc := 0#16, crcRx := 0#16 }, [])) ∧
    (8 ≤ c.2.length → (∀ j, ¬ standsAt (List.replicate 15 true) c.2 j) →
      processCandidate c off = fieldSteps c.2 c.1 off)

/-- 42_destuff_crc.md R307, R312, R313: the checks in their order, the descriptor of each class, and the CRC of an
accepted array. -/
def Obligations.FieldStepsClassifyAndCheckTheCrc : Prop :=
  ∀ (c : Bits) (start off : Nat),
    let bytes := packBytes (destuff c)
    let other : CandidateClass → Descriptor := fun cls =>
      { cls := cls, crcOk := false, resid := (destuff c).length % 8, candStart := start, candLen := c.length,
        dstufLen := (destuff c).length, byteOff := off, nbytes := bytes.length, crcCalc := 0#16, crcRx := 0#16 }
    (fieldSteps c start off).2 = bytes ∧
    if bytes.length < 5 then (fieldSteps c start off).1 = other .dropLen
    else if bytes.getD 0 0#8 ≠ 0xFF#8 then (fieldSteps c start off).1 = other .dropAddr
    else
      (fieldSteps c start off).1.cls = .accept ∧
      (fieldSteps c start off).1.crcCalc = crc16 (bytes.take (bytes.length - 2)) ∧
      (fieldSteps c start off).1.crcRx.toNat
        = (bytes.getD (bytes.length - 2) 0#8).toNat + 256 * (bytes.getD (bytes.length - 1) 0#8).toNat ∧
      ((fieldSteps c start off).1.crcOk = true ↔
        (fieldSteps c start off).1.crcCalc = (fieldSteps c start off).1.crcRx) ∧
      { (fieldSteps c start off).1 with cls := .accept, crcOk := false, crcCalc := 0#16, crcRx := 0#16 }
        = other .accept

/-- Every candidate has a descriptor of exactly one class, descriptors stand one behind the other in the bits and in frame
RAM, and the tail is what is left (10_state.md R44 to R52, 41_frame_extractor.md R257). The n-th descriptor and its bytes
are what `processCandidate` makes of the n-th candidate at the frame RAM write index, the sum of the NBYTES before it
(41_frame_extractor.md R257, R259). -/
def Obligations.DescriptorsAddUp : Prop :=
  ∀ b : Bits,
    countClass .accept (extractFrames b).descs + countClass .rejShort (extractFrames b).descs
      + countClass .rejInactive (extractFrames b).descs + countClass .dropLen (extractFrames b).descs
      + countClass .dropAddr (extractFrames b).descs = (extractFrames b).descs.length ∧
    countGood (extractFrames b).descs ≤ countClass .accept (extractFrames b).descs ∧
    (extractFrames b).bytes.length = ((extractFrames b).descs.map Descriptor.nbytes).sum ∧
    (extractFrames b).tail + ((extractFrames b).descs.map fun d => d.candLen + 8).sum = b.length ∧
    (∀ n, ∀ d ∈ (extractFrames b).descs[n]?,
      d.byteOff = (((extractFrames b).descs.take n).map Descriptor.nbytes).sum ∧
      d.candStart = (((extractFrames b).descs.take n).map fun e => e.candLen + 8).sum) ∧
    (extractFrames b).tail = (splitFlags b).2 ∧ (extractFrames b).descs.length = (splitFlags b).1.length ∧
    ∀ n, ∀ c ∈ (splitFlags b).1[n]?, ∃ off d bs, off = (((extractFrames b).descs.take n).map Descriptor.nbytes).sum ∧
      processCandidate c off = (d, bs) ∧ (extractFrames b).descs[n]? = some d ∧ d.nbytes = bs.length ∧
      ((extractFrames b).bytes.drop off).take bs.length = bs

/-- A frame stage of M bits writes at most M / 8 descriptors and M / 8 bytes, so descriptor and frame RAM cannot overflow
(41_frame_extractor.md R258, 42_destuff_crc.md R318, which the spec derives). -/
def Obligations.FramesFitTheirRams : Prop :=
  ∀ b : Bits, 8 * (extractFrames b).descs.length ≤ b.length ∧ 8 * (extractFrames b).bytes.length ≤ b.length

/-- A descriptor's words hold its fields in their places and 0 in the reserved ones (30_encoding.md R160, R161). -/
def Obligations.DescriptorWordsHoldTheFields : Prop :=
  ∀ d : Descriptor, d.resid < 8 → ∃ w0 w6 : Word,
    d.words = [w0, BitVec.ofNat 32 d.candStart, BitVec.ofNat 32 d.candLen, BitVec.ofNat 32 d.dstufLen,
      BitVec.ofNat 32 d.byteOff, BitVec.ofNat 32 d.nbytes, w6, 0#32] ∧
    (w0.extractLsb' 0 3).toNat = (match d.cls with
      | .accept => 0 | .rejShort => 1 | .rejInactive => 2 | .dropLen => 3 | .dropAddr => 4) ∧
    w0.getLsbD 3 = d.crcOk ∧ (w0.extractLsb' 4 3).toNat = d.resid ∧ w0.extractLsb' 7 25 = 0#25 ∧
    w6.extractLsb' 0 16 = d.crcCalc ∧ w6.extractLsb' 16 16 = d.crcRx

/-- Destuffing by search and deletion is the streaming form, for every bit sequence (42_destuff_crc.md R301, which the spec
derives and checked up to 16 bits). -/
def Obligations.DestuffIsTheStreamingForm : Prop := ∀ c : Bits, destuff c = destuffStream 0 c

/-- Destuffing is the exact inverse of zero-insertion (42_destuff_crc.md R302, which the spec derives). -/
def Obligations.DestuffInvertsStuff : Prop := ∀ x : Bits, destuff (stuff x) = x

/-- 42_destuff_crc.md R304: bit `t` of byte `j` is bit `8j + t` of the sequence, 0 behind its end, in ceil(d / 8) bytes. -/
def Obligations.PackedBytesHoldTheBitsLsbFirst : Prop :=
  ∀ d : Bits, (packBytes d).length = (d.length + 7) / 8 ∧
    ∀ j < (packBytes d).length, ∀ t < 8, ((packBytes d).getD j 0#8).getLsbD t = d.getD (8 * j + t) false

/-- Flipping any one bit of a byte array whose CRC is right makes it wrong (42_destuff_crc.md R319, which the spec
derives; the CRC parameters are those of log 14). -/
def Obligations.SingleBitErrorsAreDetected : Prop :=
  ∀ (bytes : List Byte) (j t : Nat), 2 ≤ bytes.length → j < bytes.length → t < 8 → crcCalc bytes = crcRx bytes →
    crcCalc (flipBit bytes j t) ≠ crcRx (flipBit bytes j t)

/-- The CRC of a good frame together with its own two FCS bytes is the constant 0x0F47 (95_test_vectors.md V-C8,
93_implementation_defined.md G1, log 14). -/
def Obligations.GoodFramesHaveTheConstantResidue : Prop :=
  ∀ bytes : List Byte, 2 ≤ bytes.length → crcCalc bytes = crcRx bytes → crc16 bytes = 0x0F47#16
end

