-- ==== Sys2Proof/Laws/State.lean ====
section
/-! SUPPORT. One lemma per field per named update of the state, so that no later proof unfolds a record update. -/

namespace Sys2Proof.Machine

/-! ## `State.storeBytes` -/

@[simp] theorem State.storeBytes_capUnits (s : State) (a : Nat) (bs : List Byte) :
    (s.storeBytes a bs).capUnits = s.capUnits := rfl
@[simp] theorem State.storeBytes_engine (s : State) (a : Nat) (bs : List Byte) :
    (s.storeBytes a bs).engine = s.engine := rfl
@[simp] theorem State.storeBytes_irqEn (s : State) (a : Nat) (bs : List Byte) :
    (s.storeBytes a bs).irqEn = s.irqEn := rfl
@[simp] theorem State.storeBytes_status (s : State) (a : Nat) (bs : List Byte) :
    (s.storeBytes a bs).status = s.status := rfl
@[simp] theorem State.storeBytes_sr (s : State) (a : Nat) (bs : List Byte) : (s.storeBytes a bs).sr = s.sr := rfl
@[simp] theorem State.storeBytes_thresh (s : State) (a : Nat) (bs : List Byte) :
    (s.storeBytes a bs).thresh = s.thresh := rfl
@[simp] theorem State.storeBytes_nsamp (s : State) (a : Nat) (bs : List Byte) :
    (s.storeBytes a bs).nsamp = s.nsamp := rfl
@[simp] theorem State.storeBytes_bitcount (s : State) (a : Nat) (bs : List Byte) :
    (s.storeBytes a bs).bitcount = s.bitcount := rfl
@[simp] theorem State.storeBytes_counters (s : State) (a : Nat) (bs : List Byte) :
    (s.storeBytes a bs).counters = s.counters := rfl
@[simp] theorem State.storeBytes_mem (s : State) (a : Nat) (bs : List Byte) :
    (s.storeBytes a bs).mem = Memory.setBytes s.mem a bs := rfl
@[simp] theorem State.storeBytes_rdata (s : State) (a : Nat) (bs : List Byte) :
    (s.storeBytes a bs).rdata = s.rdata := rfl
@[simp] theorem State.storeBytes_resp (s : State) (a : Nat) (bs : List Byte) :
    (s.storeBytes a bs).resp = s.resp := rfl
@[simp] theorem State.storeBytes_epochs (s : State) (a : Nat) (bs : List Byte) :
    (s.storeBytes a bs).epochs = s.epochs := rfl
@[simp] theorem State.storeBytes_schedule (s : State) (a : Nat) (bs : List Byte) :
    (s.storeBytes a bs).schedule = s.schedule := rfl

/-! ## `State.respond` -/

@[simp] theorem State.respond_capUnits (s : State) (e : Bool) : (s.respond e).capUnits = s.capUnits := rfl
@[simp] theorem State.respond_engine (s : State) (e : Bool) : (s.respond e).engine = s.engine := rfl
@[simp] theorem State.respond_irqEn (s : State) (e : Bool) : (s.respond e).irqEn = s.irqEn := rfl
@[simp] theorem State.respond_status (s : State) (e : Bool) : (s.respond e).status = s.status := rfl
@[simp] theorem State.respond_sr (s : State) (e : Bool) : (s.respond e).sr = s.sr := rfl
@[simp] theorem State.respond_thresh (s : State) (e : Bool) : (s.respond e).thresh = s.thresh := rfl
@[simp] theorem State.respond_nsamp (s : State) (e : Bool) : (s.respond e).nsamp = s.nsamp := rfl
@[simp] theorem State.respond_bitcount (s : State) (e : Bool) : (s.respond e).bitcount = s.bitcount := rfl
@[simp] theorem State.respond_counters (s : State) (e : Bool) : (s.respond e).counters = s.counters := rfl
@[simp] theorem State.respond_mem (s : State) (e : Bool) : (s.respond e).mem = s.mem := rfl
@[simp] theorem State.respond_rdata (s : State) (e : Bool) : (s.respond e).rdata = s.rdata := rfl
@[simp] theorem State.respond_resp (s : State) (e : Bool) : (s.respond e).resp = e := rfl
@[simp] theorem State.respond_epochs (s : State) (e : Bool) : (s.respond e).epochs = s.epochs := rfl
@[simp] theorem State.respond_schedule (s : State) (e : Bool) : (s.respond e).schedule = s.schedule := rfl

/-! ## `State.respondRead` -/

@[simp] theorem State.respondRead_capUnits (s : State) (v : Word) (e : Bool) :
    (s.respondRead v e).capUnits = s.capUnits := rfl
@[simp] theorem State.respondRead_engine (s : State) (v : Word) (e : Bool) :
    (s.respondRead v e).engine = s.engine := rfl
@[simp] theorem State.respondRead_irqEn (s : State) (v : Word) (e : Bool) : (s.respondRead v e).irqEn = s.irqEn := rfl
@[simp] theorem State.respondRead_status (s : State) (v : Word) (e : Bool) :
    (s.respondRead v e).status = s.status := rfl
@[simp] theorem State.respondRead_sr (s : State) (v : Word) (e : Bool) : (s.respondRead v e).sr = s.sr := rfl
@[simp] theorem State.respondRead_thresh (s : State) (v : Word) (e : Bool) :
    (s.respondRead v e).thresh = s.thresh := rfl
@[simp] theorem State.respondRead_nsamp (s : State) (v : Word) (e : Bool) : (s.respondRead v e).nsamp = s.nsamp := rfl
@[simp] theorem State.respondRead_bitcount (s : State) (v : Word) (e : Bool) :
    (s.respondRead v e).bitcount = s.bitcount := rfl
@[simp] theorem State.respondRead_counters (s : State) (v : Word) (e : Bool) :
    (s.respondRead v e).counters = s.counters := rfl
@[simp] theorem State.respondRead_mem (s : State) (v : Word) (e : Bool) : (s.respondRead v e).mem = s.mem := rfl
@[simp] theorem State.respondRead_rdata (s : State) (v : Word) (e : Bool) : (s.respondRead v e).rdata = v := rfl
@[simp] theorem State.respondRead_resp (s : State) (v : Word) (e : Bool) : (s.respondRead v e).resp = e := rfl
@[simp] theorem State.respondRead_epochs (s : State) (v : Word) (e : Bool) :
    (s.respondRead v e).epochs = s.epochs := rfl
@[simp] theorem State.respondRead_schedule (s : State) (v : Word) (e : Bool) :
    (s.respondRead v e).schedule = s.schedule := rfl

/-! ## `State.respondDraw` -/

@[simp] theorem State.respondDraw_capUnits (s : State) : (s.respondDraw).capUnits = s.capUnits := rfl
@[simp] theorem State.respondDraw_engine (s : State) : (s.respondDraw).engine = s.engine := rfl
@[simp] theorem State.respondDraw_irqEn (s : State) : (s.respondDraw).irqEn = s.irqEn := rfl
@[simp] theorem State.respondDraw_status (s : State) : (s.respondDraw).status = s.status := rfl
@[simp] theorem State.respondDraw_sr (s : State) : (s.respondDraw).sr = s.sr := rfl
@[simp] theorem State.respondDraw_thresh (s : State) : (s.respondDraw).thresh = s.thresh := rfl
@[simp] theorem State.respondDraw_nsamp (s : State) : (s.respondDraw).nsamp = s.nsamp := rfl
@[simp] theorem State.respondDraw_bitcount (s : State) : (s.respondDraw).bitcount = s.bitcount := rfl
@[simp] theorem State.respondDraw_counters (s : State) : (s.respondDraw).counters = s.counters := rfl
@[simp] theorem State.respondDraw_mem (s : State) : (s.respondDraw).mem = s.mem := rfl
@[simp] theorem State.respondDraw_rdata (s : State) : (s.respondDraw).rdata = Config.readDraw s.epochs.next := rfl
@[simp] theorem State.respondDraw_resp (s : State) : (s.respondDraw).resp = false := rfl
@[simp] theorem State.respondDraw_epochs (s : State) : (s.respondDraw).epochs = s.epochs.advance := rfl
@[simp] theorem State.respondDraw_schedule (s : State) : (s.respondDraw).schedule = s.schedule := rfl

/-! ## `State.raiseError` -/

@[simp] theorem State.raiseError_capUnits (s : State) (e : ErrorCode) : (s.raiseError e).capUnits = s.capUnits := rfl
@[simp] theorem State.raiseError_engine (s : State) (e : ErrorCode) : (s.raiseError e).engine = s.engine := rfl
@[simp] theorem State.raiseError_irqEn (s : State) (e : ErrorCode) : (s.raiseError e).irqEn = s.irqEn := rfl
@[simp] theorem State.raiseError_status (s : State) (e : ErrorCode) :
    (s.raiseError e).status = s.status.record e := rfl
@[simp] theorem State.raiseError_sr (s : State) (e : ErrorCode) : (s.raiseError e).sr = s.sr := rfl
@[simp] theorem State.raiseError_thresh (s : State) (e : ErrorCode) : (s.raiseError e).thresh = s.thresh := rfl
@[simp] theorem State.raiseError_nsamp (s : State) (e : ErrorCode) : (s.raiseError e).nsamp = s.nsamp := rfl
@[simp] theorem State.raiseError_bitcount (s : State) (e : ErrorCode) : (s.raiseError e).bitcount = s.bitcount := rfl
@[simp] theorem State.raiseError_counters (s : State) (e : ErrorCode) : (s.raiseError e).counters = s.counters := rfl
@[simp] theorem State.raiseError_mem (s : State) (e : ErrorCode) : (s.raiseError e).mem = s.mem := rfl
@[simp] theorem State.raiseError_rdata (s : State) (e : ErrorCode) : (s.raiseError e).rdata = s.rdata := rfl
@[simp] theorem State.raiseError_resp (s : State) (e : ErrorCode) : (s.raiseError e).resp = s.resp := rfl
@[simp] theorem State.raiseError_epochs (s : State) (e : ErrorCode) : (s.raiseError e).epochs = s.epochs := rfl
@[simp] theorem State.raiseError_schedule (s : State) (e : ErrorCode) : (s.raiseError e).schedule = s.schedule := rfl

/-! ## `State.writeStatus` -/

@[simp] theorem State.writeStatus_capUnits (s : State) (v : Word) : (s.writeStatus v).capUnits = s.capUnits := rfl
@[simp] theorem State.writeStatus_engine (s : State) (v : Word) : (s.writeStatus v).engine = s.engine := rfl
@[simp] theorem State.writeStatus_irqEn (s : State) (v : Word) : (s.writeStatus v).irqEn = s.irqEn := rfl
@[simp] theorem State.writeStatus_status (s : State) (v : Word) : (s.writeStatus v).status = s.status.w1c v := rfl
@[simp] theorem State.writeStatus_sr (s : State) (v : Word) : (s.writeStatus v).sr = s.sr := rfl
@[simp] theorem State.writeStatus_thresh (s : State) (v : Word) : (s.writeStatus v).thresh = s.thresh := rfl
@[simp] theorem State.writeStatus_nsamp (s : State) (v : Word) : (s.writeStatus v).nsamp = s.nsamp := rfl
@[simp] theorem State.writeStatus_bitcount (s : State) (v : Word) : (s.writeStatus v).bitcount = s.bitcount := rfl
@[simp] theorem State.writeStatus_counters (s : State) (v : Word) : (s.writeStatus v).counters = s.counters := rfl
@[simp] theorem State.writeStatus_mem (s : State) (v : Word) : (s.writeStatus v).mem = s.mem := rfl
@[simp] theorem State.writeStatus_rdata (s : State) (v : Word) : (s.writeStatus v).rdata = s.rdata := rfl
@[simp] theorem State.writeStatus_resp (s : State) (v : Word) : (s.writeStatus v).resp = s.resp := rfl
@[simp] theorem State.writeStatus_epochs (s : State) (v : Word) : (s.writeStatus v).epochs = s.epochs := rfl
@[simp] theorem State.writeStatus_schedule (s : State) (v : Word) : (s.writeStatus v).schedule = s.schedule := rfl

/-! ## `State.ignoreWrite` -/

@[simp] theorem State.ignoreWrite_capUnits (s : State) : (s.ignoreWrite).capUnits = s.capUnits := rfl
@[simp] theorem State.ignoreWrite_engine (s : State) : (s.ignoreWrite).engine = s.engine := rfl
@[simp] theorem State.ignoreWrite_irqEn (s : State) : (s.ignoreWrite).irqEn = s.irqEn := rfl
@[simp] theorem State.ignoreWrite_status (s : State) : (s.ignoreWrite).status = { s.status with werr := true } := rfl
@[simp] theorem State.ignoreWrite_sr (s : State) : (s.ignoreWrite).sr = s.sr := rfl
@[simp] theorem State.ignoreWrite_thresh (s : State) : (s.ignoreWrite).thresh = s.thresh := rfl
@[simp] theorem State.ignoreWrite_nsamp (s : State) : (s.ignoreWrite).nsamp = s.nsamp := rfl
@[simp] theorem State.ignoreWrite_bitcount (s : State) : (s.ignoreWrite).bitcount = s.bitcount := rfl
@[simp] theorem State.ignoreWrite_counters (s : State) : (s.ignoreWrite).counters = s.counters := rfl
@[simp] theorem State.ignoreWrite_mem (s : State) : (s.ignoreWrite).mem = s.mem := rfl
@[simp] theorem State.ignoreWrite_rdata (s : State) : (s.ignoreWrite).rdata = s.rdata := rfl
@[simp] theorem State.ignoreWrite_resp (s : State) : (s.ignoreWrite).resp = s.resp := rfl
@[simp] theorem State.ignoreWrite_epochs (s : State) : (s.ignoreWrite).epochs = s.epochs := rfl
@[simp] theorem State.ignoreWrite_schedule (s : State) : (s.ignoreWrite).schedule = s.schedule := rfl

/-! ## `State.demodStage` -/

@[simp] theorem State.demodStage_capUnits (s : State) : (s.demodStage).capUnits = s.capUnits := rfl
@[simp] theorem State.demodStage_engine (s : State) : (s.demodStage).engine = s.engine := rfl
@[simp] theorem State.demodStage_irqEn (s : State) : (s.demodStage).irqEn = s.irqEn := rfl
@[simp] theorem State.demodStage_status (s : State) : (s.demodStage).status = s.status := rfl
@[simp] theorem State.demodStage_sr (s : State) : (s.demodStage).sr = s.sr := rfl
@[simp] theorem State.demodStage_thresh (s : State) : (s.demodStage).thresh = s.thresh := rfl
@[simp] theorem State.demodStage_nsamp (s : State) : (s.demodStage).nsamp = s.nsamp := rfl
@[simp] theorem State.demodStage_bitcount (s : State) :
    (s.demodStage).bitcount = BitVec.ofNat 23 s.demodBits.length := rfl
@[simp] theorem State.demodStage_counters (s : State) : (s.demodStage).counters = s.counters := rfl
@[simp] theorem State.demodStage_mem (s : State) :
    (s.demodStage).mem = Memory.setBytes s.mem Ram.bit.base (packBytes (padTo 32 false s.demodBits)) := rfl
@[simp] theorem State.demodStage_rdata (s : State) : (s.demodStage).rdata = s.rdata := rfl
@[simp] theorem State.demodStage_resp (s : State) : (s.demodStage).resp = s.resp := rfl
@[simp] theorem State.demodStage_epochs (s : State) : (s.demodStage).epochs = s.epochs := rfl
@[simp] theorem State.demodStage_schedule (s : State) : (s.demodStage).schedule = s.schedule := rfl

/-! ## `State.frameStage` -/

@[simp] theorem State.frameStage_capUnits (s : State) : (s.frameStage).capUnits = s.capUnits := rfl
@[simp] theorem State.frameStage_engine (s : State) : (s.frameStage).engine = s.engine := rfl
@[simp] theorem State.frameStage_irqEn (s : State) : (s.frameStage).irqEn = s.irqEn := rfl
@[simp] theorem State.frameStage_status (s : State) : (s.frameStage).status = s.status := rfl
@[simp] theorem State.frameStage_sr (s : State) : (s.frameStage).sr = s.sr := rfl
@[simp] theorem State.frameStage_thresh (s : State) : (s.frameStage).thresh = s.thresh := rfl
@[simp] theorem State.frameStage_nsamp (s : State) : (s.frameStage).nsamp = s.nsamp := rfl
@[simp] theorem State.frameStage_bitcount (s : State) : (s.frameStage).bitcount = s.bitcount := rfl
@[simp] theorem State.frameStage_counters (s : State) : (s.frameStage).counters = s.frameResult.counters := rfl
@[simp] theorem State.frameStage_mem (s : State) : (s.frameStage).mem = s.frameResult.store s.mem := rfl
@[simp] theorem State.frameStage_rdata (s : State) : (s.frameStage).rdata = s.rdata := rfl
@[simp] theorem State.frameStage_resp (s : State) : (s.frameStage).resp = s.resp := rfl
@[simp] theorem State.frameStage_epochs (s : State) : (s.frameStage).epochs = s.epochs := rfl
@[simp] theorem State.frameStage_schedule (s : State) : (s.frameStage).schedule = s.schedule := rfl

/-! ## `State.finishJob` -/

@[simp] theorem State.finishJob_capUnits (s : State) : (s.finishJob).capUnits = s.capUnits := rfl
@[simp] theorem State.finishJob_engine (s : State) : (s.finishJob).engine = .idle := rfl
@[simp] theorem State.finishJob_irqEn (s : State) : (s.finishJob).irqEn = s.irqEn := rfl
@[simp] theorem State.finishJob_status (s : State) : (s.finishJob).status = { s.status with done := true } := rfl
@[simp] theorem State.finishJob_sr (s : State) : (s.finishJob).sr = s.sr := rfl
@[simp] theorem State.finishJob_thresh (s : State) : (s.finishJob).thresh = s.thresh := rfl
@[simp] theorem State.finishJob_nsamp (s : State) : (s.finishJob).nsamp = s.nsamp := rfl
@[simp] theorem State.finishJob_bitcount (s : State) : (s.finishJob).bitcount = s.bitcount := rfl
@[simp] theorem State.finishJob_counters (s : State) : (s.finishJob).counters = s.counters := rfl
@[simp] theorem State.finishJob_mem (s : State) : (s.finishJob).mem = s.mem := rfl
@[simp] theorem State.finishJob_rdata (s : State) : (s.finishJob).rdata = s.rdata := rfl
@[simp] theorem State.finishJob_resp (s : State) : (s.finishJob).resp = s.resp := rfl
@[simp] theorem State.finishJob_epochs (s : State) : (s.finishJob).epochs = s.epochs := rfl
@[simp] theorem State.finishJob_schedule (s : State) : (s.finishJob).schedule = s.schedule := rfl

/-! ## `State.acceptJob` -/

@[simp] theorem State.acceptJob_capUnits (s : State) (j : Job) : (s.acceptJob j).capUnits = s.capUnits := rfl
@[simp] theorem State.acceptJob_engine (s : State) (j : Job) : (s.acceptJob j).engine = .busy j := rfl
@[simp] theorem State.acceptJob_irqEn (s : State) (j : Job) : (s.acceptJob j).irqEn = s.irqEn := rfl
@[simp] theorem State.acceptJob_status (s : State) (j : Job) : (s.acceptJob j).status = s.status.accepted := rfl
@[simp] theorem State.acceptJob_sr (s : State) (j : Job) : (s.acceptJob j).sr = s.sr := rfl
@[simp] theorem State.acceptJob_thresh (s : State) (j : Job) : (s.acceptJob j).thresh = s.thresh := rfl
@[simp] theorem State.acceptJob_nsamp (s : State) (j : Job) : (s.acceptJob j).nsamp = s.nsamp := rfl
@[simp] theorem State.acceptJob_bitcount (s : State) (j : Job) : (s.acceptJob j).bitcount = s.bitcount := rfl
@[simp] theorem State.acceptJob_counters (s : State) (j : Job) : (s.acceptJob j).counters = s.counters := rfl
@[simp] theorem State.acceptJob_mem (s : State) (j : Job) : (s.acceptJob j).mem = s.mem := rfl
@[simp] theorem State.acceptJob_rdata (s : State) (j : Job) : (s.acceptJob j).rdata = s.rdata := rfl
@[simp] theorem State.acceptJob_resp (s : State) (j : Job) : (s.acceptJob j).resp = s.resp := rfl
@[simp] theorem State.acceptJob_epochs (s : State) (j : Job) : (s.acceptJob j).epochs = s.epochs := rfl
@[simp] theorem State.acceptJob_schedule (s : State) (j : Job) : (s.acceptJob j).schedule = s.schedule := rfl

/-! ## `State.drawDemodOutputs` -/

@[simp] theorem State.drawDemodOutputs_capUnits (s : State) : (s.drawDemodOutputs).capUnits = s.capUnits := rfl
@[simp] theorem State.drawDemodOutputs_engine (s : State) : (s.drawDemodOutputs).engine = s.engine := rfl
@[simp] theorem State.drawDemodOutputs_irqEn (s : State) : (s.drawDemodOutputs).irqEn = s.irqEn := rfl
@[simp] theorem State.drawDemodOutputs_status (s : State) : (s.drawDemodOutputs).status = s.status := rfl
@[simp] theorem State.drawDemodOutputs_sr (s : State) : (s.drawDemodOutputs).sr = s.sr := rfl
@[simp] theorem State.drawDemodOutputs_thresh (s : State) : (s.drawDemodOutputs).thresh = s.thresh := rfl
@[simp] theorem State.drawDemodOutputs_nsamp (s : State) : (s.drawDemodOutputs).nsamp = s.nsamp := rfl
@[simp] theorem State.drawDemodOutputs_bitcount (s : State) :
    (s.drawDemodOutputs).bitcount = (Config.registerDraw s.epochs.next Reg.bitcount.offset).setWidth 23 := rfl
@[simp] theorem State.drawDemodOutputs_counters (s : State) : (s.drawDemodOutputs).counters = s.counters := rfl
@[simp] theorem State.drawDemodOutputs_mem (s : State) : (s.drawDemodOutputs).mem = Memory.forget s.mem .bit := rfl
@[simp] theorem State.drawDemodOutputs_rdata (s : State) : (s.drawDemodOutputs).rdata = s.rdata := rfl
@[simp] theorem State.drawDemodOutputs_resp (s : State) : (s.drawDemodOutputs).resp = s.resp := rfl
@[simp] theorem State.drawDemodOutputs_epochs (s : State) : (s.drawDemodOutputs).epochs = s.epochs.renew .bit := rfl
@[simp] theorem State.drawDemodOutputs_schedule (s : State) : (s.drawDemodOutputs).schedule = s.schedule := rfl

/-! ## `State.drawFrameOutputs` -/

@[simp] theorem State.drawFrameOutputs_capUnits (s : State) : (s.drawFrameOutputs).capUnits = s.capUnits := rfl
@[simp] theorem State.drawFrameOutputs_engine (s : State) : (s.drawFrameOutputs).engine = s.engine := rfl
@[simp] theorem State.drawFrameOutputs_irqEn (s : State) : (s.drawFrameOutputs).irqEn = s.irqEn := rfl
@[simp] theorem State.drawFrameOutputs_status (s : State) : (s.drawFrameOutputs).status = s.status := rfl
@[simp] theorem State.drawFrameOutputs_sr (s : State) : (s.drawFrameOutputs).sr = s.sr := rfl
@[simp] theorem State.drawFrameOutputs_thresh (s : State) : (s.drawFrameOutputs).thresh = s.thresh := rfl
@[simp] theorem State.drawFrameOutputs_nsamp (s : State) : (s.drawFrameOutputs).nsamp = s.nsamp := rfl
@[simp] theorem State.drawFrameOutputs_bitcount (s : State) : (s.drawFrameOutputs).bitcount = s.bitcount := rfl
@[simp] theorem State.drawFrameOutputs_counters (s : State) :
    (s.drawFrameOutputs).counters = drawnCounters s.epochs.next := rfl
@[simp] theorem State.drawFrameOutputs_mem (s : State) :
    (s.drawFrameOutputs).mem = Memory.forget (Memory.forget s.mem .frame) .desc := rfl
@[simp] theorem State.drawFrameOutputs_rdata (s : State) : (s.drawFrameOutputs).rdata = s.rdata := rfl
@[simp] theorem State.drawFrameOutputs_resp (s : State) : (s.drawFrameOutputs).resp = s.resp := rfl
@[simp] theorem State.drawFrameOutputs_epochs (s : State) :
    (s.drawFrameOutputs).epochs = (s.epochs.renew .frame).renew .desc := rfl
@[simp] theorem State.drawFrameOutputs_schedule (s : State) : (s.drawFrameOutputs).schedule = s.schedule := rfl

/-! ## `State.endAborted` -/

@[simp] theorem State.endAborted_capUnits (s : State) : (s.endAborted).capUnits = s.capUnits := rfl
@[simp] theorem State.endAborted_engine (s : State) : (s.endAborted).engine = .idle := rfl
@[simp] theorem State.endAborted_irqEn (s : State) : (s.endAborted).irqEn = s.irqEn := rfl
@[simp] theorem State.endAborted_status (s : State) : (s.endAborted).status = { s.status with aborted := true } := rfl
@[simp] theorem State.endAborted_sr (s : State) : (s.endAborted).sr = s.sr := rfl
@[simp] theorem State.endAborted_thresh (s : State) : (s.endAborted).thresh = s.thresh := rfl
@[simp] theorem State.endAborted_nsamp (s : State) : (s.endAborted).nsamp = s.nsamp := rfl
@[simp] theorem State.endAborted_bitcount (s : State) : (s.endAborted).bitcount = s.bitcount := rfl
@[simp] theorem State.endAborted_counters (s : State) : (s.endAborted).counters = s.counters := rfl
@[simp] theorem State.endAborted_mem (s : State) : (s.endAborted).mem = s.mem := rfl
@[simp] theorem State.endAborted_rdata (s : State) : (s.endAborted).rdata = s.rdata := rfl
@[simp] theorem State.endAborted_resp (s : State) : (s.endAborted).resp = s.resp := rfl
@[simp] theorem State.endAborted_epochs (s : State) : (s.endAborted).epochs = s.epochs.advance := rfl
@[simp] theorem State.endAborted_schedule (s : State) : (s.endAborted).schedule = s.schedule := rfl

/-! ## `State.resetBlock` -/

@[simp] theorem State.resetBlock_capUnits (s : State) : (s.resetBlock).capUnits = s.capUnits := rfl
@[simp] theorem State.resetBlock_engine (s : State) : (s.resetBlock).engine = .idle := rfl
@[simp] theorem State.resetBlock_irqEn (s : State) : (s.resetBlock).irqEn = false := rfl
@[simp] theorem State.resetBlock_status (s : State) : (s.resetBlock).status = State.reset.status := rfl
@[simp] theorem State.resetBlock_sr (s : State) : (s.resetBlock).sr = 0#18 := rfl
@[simp] theorem State.resetBlock_thresh (s : State) : (s.resetBlock).thresh = Config.threshReset := rfl
@[simp] theorem State.resetBlock_nsamp (s : State) : (s.resetBlock).nsamp = 0#23 := rfl
@[simp] theorem State.resetBlock_bitcount (s : State) : (s.resetBlock).bitcount = 0#23 := rfl
@[simp] theorem State.resetBlock_counters (s : State) : (s.resetBlock).counters = State.reset.counters := rfl
@[simp] theorem State.resetBlock_mem (s : State) : (s.resetBlock).mem = [] := rfl
@[simp] theorem State.resetBlock_rdata (s : State) : (s.resetBlock).rdata = s.rdata := rfl
@[simp] theorem State.resetBlock_resp (s : State) : (s.resetBlock).resp = s.resp := rfl
@[simp] theorem State.resetBlock_epochs (s : State) : (s.resetBlock).epochs = s.epochs.renewAll := rfl
@[simp] theorem State.resetBlock_schedule (s : State) : (s.resetBlock).schedule = s.schedule := rfl

/-! ## `State.takeEvent` -/

@[simp] theorem State.takeEvent_capUnits (s : State) : (s.takeEvent).capUnits = s.capUnits := rfl
@[simp] theorem State.takeEvent_engine (s : State) : (s.takeEvent).engine = s.engine := rfl
@[simp] theorem State.takeEvent_irqEn (s : State) : (s.takeEvent).irqEn = s.irqEn := rfl
@[simp] theorem State.takeEvent_status (s : State) : (s.takeEvent).status = s.status := rfl
@[simp] theorem State.takeEvent_sr (s : State) : (s.takeEvent).sr = s.sr := rfl
@[simp] theorem State.takeEvent_thresh (s : State) : (s.takeEvent).thresh = s.thresh := rfl
@[simp] theorem State.takeEvent_nsamp (s : State) : (s.takeEvent).nsamp = s.nsamp := rfl
@[simp] theorem State.takeEvent_bitcount (s : State) : (s.takeEvent).bitcount = s.bitcount := rfl
@[simp] theorem State.takeEvent_counters (s : State) : (s.takeEvent).counters = s.counters := rfl
@[simp] theorem State.takeEvent_mem (s : State) : (s.takeEvent).mem = s.mem := rfl
@[simp] theorem State.takeEvent_rdata (s : State) : (s.takeEvent).rdata = s.rdata := rfl
@[simp] theorem State.takeEvent_resp (s : State) : (s.takeEvent).resp = s.resp := rfl
@[simp] theorem State.takeEvent_epochs (s : State) : (s.takeEvent).epochs = s.epochs := rfl
@[simp] theorem State.takeEvent_schedule (s : State) : (s.takeEvent).schedule = s.schedule.tail := rfl

/-! ## `State.placeTransaction` -/

@[simp] theorem State.placeTransaction_capUnits (s : State) (t : BusTransaction) :
    (s.placeTransaction t).capUnits = s.capUnits := rfl
@[simp] theorem State.placeTransaction_engine (s : State) (t : BusTransaction) :
    (s.placeTransaction t).engine = s.engine := rfl
@[simp] theorem State.placeTransaction_irqEn (s : State) (t : BusTransaction) :
    (s.placeTransaction t).irqEn = s.irqEn := rfl
@[simp] theorem State.placeTransaction_status (s : State) (t : BusTransaction) :
    (s.placeTransaction t).status = s.status := rfl
@[simp] theorem State.placeTransaction_sr (s : State) (t : BusTransaction) : (s.placeTransaction t).sr = s.sr := rfl
@[simp] theorem State.placeTransaction_thresh (s : State) (t : BusTransaction) :
    (s.placeTransaction t).thresh = s.thresh := rfl
@[simp] theorem State.placeTransaction_nsamp (s : State) (t : BusTransaction) :
    (s.placeTransaction t).nsamp = s.nsamp := rfl
@[simp] theorem State.placeTransaction_bitcount (s : State) (t : BusTransaction) :
    (s.placeTransaction t).bitcount = s.bitcount := rfl
@[simp] theorem State.placeTransaction_counters (s : State) (t : BusTransaction) :
    (s.placeTransaction t).counters = s.counters := rfl
@[simp] theorem State.placeTransaction_mem (s : State) (t : BusTransaction) :
    (s.placeTransaction t).mem = s.mem := rfl
@[simp] theorem State.placeTransaction_rdata (s : State) (t : BusTransaction) :
    (s.placeTransaction t).rdata = s.rdata := rfl
@[simp] theorem State.placeTransaction_resp (s : State) (t : BusTransaction) :
    (s.placeTransaction t).resp = s.resp := rfl
@[simp] theorem State.placeTransaction_epochs (s : State) (t : BusTransaction) :
    (s.placeTransaction t).epochs = s.epochs := rfl
@[simp] theorem State.placeTransaction_schedule (s : State) (t : BusTransaction) :
    (s.placeTransaction t).schedule = .host t :: s.schedule := rfl

end Sys2Proof.Machine
end

