-- ==== Sys2Proof/Laws/Memory.lean ====
section
/-! SUPPORT. What the memory operations do: a byte read back after each of them, and the canonical form they all keep. -/

namespace Sys2Proof.Machine

/-! ## Reading after writing -/

@[simp] theorem Memory.get_nil (a : Nat) : Memory.get [] a = none := rfl

@[simp] theorem Memory.get_cons (c : Host.Cell) (m : Memory) (a : Nat) :
    Memory.get (c :: m) a = if c.1 = a then some c.2 else Memory.get m a := rfl

/-- Reading after storing one byte, in every list, canonical or not. -/
theorem Memory.get_set (m : Memory) (a b : Nat) (v : Byte) :
    Memory.get (Memory.set m a v) b = if b = a then some v else Memory.get m b := by
  induction m with
  | nil => simp [Memory.set, eq_comm]
  | cons c m ih =>
    obtain ⟨k, x⟩ := c
    by_cases h1 : a < k
    · simp only [Memory.set, h1, if_true, Memory.get_cons]
      by_cases h : b = a
      · simp [h]
      · simp [h, Ne.symm h, eq_comm]
    · by_cases h2 : a = k
      · subst h2
        simp only [Memory.set, h1, if_false, if_true, Memory.get_cons]
        by_cases h : b = a
        · simp [h]
        · simp [h, Ne.symm h]
      · simp only [Memory.set, h1, h2, if_false, Memory.get_cons, ih]
        by_cases h : b = a
        · subst h; simp [Ne.symm h2]
        · simp [h]

/-- Reading after storing bytes: an offset in their range reads its byte, every other one reads as before. -/
theorem Memory.get_setBytes (m : Memory) (a b : Nat) (bs : List Byte) :
    Memory.get (Memory.setBytes m a bs) b
      = if a ≤ b ∧ b < a + bs.length then bs[b - a]? else Memory.get m b := by
  induction bs generalizing m a with
  | nil => simp only [Memory.setBytes, List.length_nil]; rw [if_neg (by omega)]
  | cons x xs ih =>
    rw [Memory.setBytes, ih, Memory.get_set]
    simp only [List.length_cons]
    by_cases h : b = a
    · subst h
      rw [if_neg (by omega), if_pos rfl, if_pos (by omega)]; simp
    · rw [if_neg h]
      by_cases h2 : a + 1 ≤ b ∧ b < a + 1 + xs.length
      · rw [if_pos h2, if_pos (by omega), show b - a = b - (a + 1) + 1 by omega, List.getElem?_cons_succ]
      · rw [if_neg h2, if_neg (by omega)]

theorem Memory.get_setBytes_outside (m : Memory) (a b : Nat) (bs : List Byte) (h : b < a ∨ a + bs.length ≤ b) :
    Memory.get (Memory.setBytes m a bs) b = Memory.get m b := by
  rw [Memory.get_setBytes, if_neg (by omega)]

/-- Reading after a RAM has been forgotten: nothing is stored in its window, every other offset reads as before. -/
theorem Memory.get_forget (m : Memory) (r : Ram) (b : Nat) :
    Memory.get (Memory.forget m r) b = if r.holds b then none else Memory.get m b := by
  induction m with
  | nil => simp [Memory.forget]
  | cons c m ih =>
    simp only [Memory.forget] at ih ⊢
    by_cases hc : r.holds c.1
    · rw [List.filter_cons_of_neg (by simp [hc]), ih, Memory.get_cons]
      by_cases hb : r.holds b
      · simp [hb]
      · rw [if_neg hb, if_neg hb, if_neg (fun e : c.1 = b => hb (e ▸ hc))]
    · rw [List.filter_cons_of_pos (by simp [hc]), Memory.get_cons, Memory.get_cons, ih]
      by_cases e : c.1 = b
      · rw [if_pos e, if_pos e, if_neg (e ▸ hc)]
      · rw [if_neg e, if_neg e]

/-! ## Bytes of a state -/

theorem State.byteAt_of_get {s t : State} {m : Ram} {a : Nat} (hm : Memory.get t.mem a = Memory.get s.mem a)
    (he : t.epochs.of m = s.epochs.of m) : t.byteAt m a = s.byteAt m a := by
  simp [State.byteAt, hm, he]

/-- A byte after storing bytes. -/
theorem State.byteAt_storeBytes (s : State) (a b : Nat) (bs : List Byte) (m : Ram) :
    (s.storeBytes a bs).byteAt m b = if a ≤ b ∧ b < a + bs.length then bs.getD (b - a) 0#8 else s.byteAt m b := by
  simp only [State.byteAt, State.storeBytes_mem, State.storeBytes_epochs, Memory.get_setBytes]
  by_cases h : a ≤ b ∧ b < a + bs.length
  · have hlt : b - a < bs.length := by omega
    simp [h, List.getD_eq_getElem?_getD, List.getElem?_eq_getElem hlt]
  · rw [if_neg h, if_neg h]

/-! ## The canonical form -/

theorem Memory.wf_cons_iff (c : Host.Cell) (m : Memory) :
    Memory.wf (c :: m) = true ↔ (∀ d, m.head? = some d → c.1 < d.1) ∧ Memory.wf m = true := by
  cases m with
  | nil => simp [Memory.wf]
  | cons d m => simp [Memory.wf]

theorem Memory.wf_tail {c : Host.Cell} {m : Memory} (h : Memory.wf (c :: m) = true) : Memory.wf m = true :=
  ((Memory.wf_cons_iff c m).1 h).2

/-- In a canonical list the first offset lies below all others. -/
theorem Memory.wf_lt {c : Host.Cell} {m : Memory} (h : Memory.wf (c :: m) = true) : ∀ d ∈ m, c.1 < d.1 := by
  induction m generalizing c with
  | nil => simp
  | cons e m ih =>
    obtain ⟨h1, h2⟩ := (Memory.wf_cons_iff c (e :: m)).1 h
    have hce := h1 e rfl
    intro d hd
    rcases List.mem_cons.1 hd with rfl | hd
    · exact hce
    · exact Nat.lt_trans hce (ih h2 d hd)

theorem Memory.wf_cons_of_lt {c : Host.Cell} {m : Memory} (hm : Memory.wf m = true) (h : ∀ d ∈ m, c.1 < d.1) :
    Memory.wf (c :: m) = true :=
  (Memory.wf_cons_iff c m).2 ⟨fun d hd => h d (List.mem_of_mem_head? hd), hm⟩

/-- What a stored byte adds to the list. -/
theorem Memory.mem_set {m : Memory} {a : Nat} {v : Byte} {c : Host.Cell} (h : c ∈ Memory.set m a v) :
    c = (a, v) ∨ c ∈ m := by
  induction m with
  | nil => simpa [Memory.set] using h
  | cons d m ih =>
    obtain ⟨k, x⟩ := d
    simp only [Memory.set] at h
    split at h
    · simpa using h
    · split at h
      · rcases List.mem_cons.1 h with h | h
        · exact .inl h
        · exact .inr (List.mem_cons_of_mem _ h)
      · rcases List.mem_cons.1 h with h | h
        · exact .inr (h ▸ List.mem_cons_self)
        · exact (ih h).imp_right (List.mem_cons_of_mem _)

/-- What stored bytes add to the list: only offsets of their range. -/
theorem Memory.mem_setBytes {m : Memory} {a : Nat} {bs : List Byte} {c : Host.Cell}
    (h : c ∈ Memory.setBytes m a bs) : (a ≤ c.1 ∧ c.1 < a + bs.length) ∨ c ∈ m := by
  induction bs generalizing m a with
  | nil => exact .inr h
  | cons x xs ih =>
    rcases ih h with h | h
    · left; simp only [List.length_cons]; omega
    · rcases Memory.mem_set h with rfl | h
      · left; simp only [List.length_cons]; omega
      · exact .inr h

theorem Memory.mem_forget {m : Memory} {r : Ram} {c : Host.Cell} (h : c ∈ Memory.forget m r) :
    c ∈ m ∧ r.holds c.1 = false := by
  simpa [Memory.forget] using h

/-- Storing a byte keeps the canonical form. -/
theorem Memory.wf_set {m : Memory} (a : Nat) (v : Byte) (h : Memory.wf m = true) :
    Memory.wf (Memory.set m a v) = true := by
  induction m with
  | nil => rfl
  | cons d m ih =>
    obtain ⟨k, x⟩ := d
    have hlt := Memory.wf_lt h
    simp only [Memory.set]
    split
    · rename_i hk
      refine Memory.wf_cons_of_lt h fun d hd => ?_
      rcases List.mem_cons.1 hd with rfl | hd
      · exact hk
      · exact Nat.lt_trans hk (hlt d hd)
    · split
      · rename_i e
        exact Memory.wf_cons_of_lt (Memory.wf_tail h) fun d hd => e ▸ hlt d hd
      · refine Memory.wf_cons_of_lt (ih (Memory.wf_tail h)) fun d hd => ?_
        rcases Memory.mem_set hd with rfl | hd
        · show k < a
          omega
        · exact hlt d hd

/-- Storing bytes keeps the canonical form. -/
theorem Memory.wf_setBytes {m : Memory} (a : Nat) (bs : List Byte) (h : Memory.wf m = true) :
    Memory.wf (Memory.setBytes m a bs) = true := by
  induction bs generalizing m a with
  | nil => exact h
  | cons b bs ih => exact ih (a + 1) (Memory.wf_set a b h)

/-- Forgetting a RAM keeps the canonical form. -/
theorem Memory.wf_forget {m : Memory} (r : Ram) (h : Memory.wf m = true) : Memory.wf (Memory.forget m r) = true := by
  induction m with
  | nil => rfl
  | cons d m ih =>
    have ht := ih (Memory.wf_tail h)
    simp only [Memory.forget] at ht ⊢
    by_cases hd : r.holds d.1
    · rwa [List.filter_cons_of_neg (by simp [hd])]
    · rw [List.filter_cons_of_pos (by simp [hd])]
      exact Memory.wf_cons_of_lt ht fun c hc => Memory.wf_lt h c (List.mem_of_mem_filter hc)

/-- The memory after a frame stage is canonical if the memory before it was. -/
theorem FrameResult.wf_store {m : Memory} (r : FrameResult) (h : Memory.wf m = true) :
    Memory.wf (r.store m) = true :=
  Memory.wf_setBytes _ _ (Memory.wf_setBytes _ _ h)

theorem State.reset_mem_wf : Memory.wf State.reset.mem = true := rfl

end Sys2Proof.Machine
end

