-- ==== Sys2Proof/Laws/Machine.lean ====
section
/-! SUPPORT. What each shared operation and each meaning can do, said once. -/

namespace Sys2Proof.Machine

/-! ## Engine and draws -/

@[simp] theorem EngineState.isBusy_idle : EngineState.idle.isBusy = false := rfl
@[simp] theorem EngineState.isBusy_busy (j : Job) : (EngineState.busy j).isBusy = true := rfl

theorem EngineState.isBusy_iff (e : EngineState) : e.isBusy = true ↔ ∃ j, e = .busy j := by
  cases e <;> simp

@[simp] theorem EngineState.writes_idle (l : Location) : EngineState.idle.writes l = false := rfl
@[simp] theorem EngineState.writes_busy (j : Job) (l : Location) : (EngineState.busy j).writes l = j.writes l := rfl

@[simp] theorem DrawEpochs.advance_of (e : DrawEpochs) (m : Ram) : e.advance.of m = e.of m := by cases m <;> rfl
@[simp] theorem DrawEpochs.advance_next (e : DrawEpochs) : e.advance.next = e.next + 1 := rfl
@[simp] theorem DrawEpochs.renew_next (e : DrawEpochs) (m : Ram) : (e.renew m).next = e.next := by cases m <;> rfl
@[simp] theorem DrawEpochs.renew_of_self (e : DrawEpochs) (m : Ram) : (e.renew m).of m = e.next := by cases m <;> rfl
theorem DrawEpochs.renew_of_ne (e : DrawEpochs) {m n : Ram} (h : n ≠ m) : (e.renew m).of n = e.of n := by
  cases m <;> cases n <;> first | rfl | exact absurd rfl h
@[simp] theorem DrawEpochs.renewAll_of (e : DrawEpochs) (m : Ram) : e.renewAll.of m = e.next := by cases m <;> rfl
@[simp] theorem DrawEpochs.renewAll_next (e : DrawEpochs) : e.renewAll.next = e.next + 1 := rfl

/-- No offset lies in two windows. -/
theorem Ram.holds_unique {m n : Ram} {a : Nat} (h : m.holds a = true) (h' : n.holds a = true) : m = n := by
  simp only [Ram.holds, Bool.and_eq_true, decide_eq_true_eq] at h h'
  cases m <;> cases n <;> first | rfl | (exfalso; simp only [Ram.base, Ram.window] at h h'; omega)

theorem State.sampleCap_le (s : State) : s.sampleCap ≤ 4194304 := by
  have := s.capUnits.isLt; unfold State.sampleCap; omega

theorem State.sampleCap_ge (s : State) : 32 ≤ s.sampleCap := by unfold State.sampleCap; omega

theorem State.sampleCap_dvd (s : State) : s.sampleCap % 32 = 0 := by unfold State.sampleCap; omega

/-- The backed part of a RAM lies in its window. -/
theorem State.holds_of_backs {s : State} {m : Ram} {a : Nat} (h : s.backs m a = true) : m.holds a = true := by
  have := s.capUnits.isLt
  simp only [State.backs, Ram.holds, Bool.and_eq_true, decide_eq_true_eq] at h ⊢
  cases m <;> simp only [Ram.base, Ram.window, State.ramBytes, State.bitCap, State.frameCap, State.descCap,
    State.sampleCap] at h ⊢ <;> omega

/-! ## Status -/

theorem Status.record_cases (st : Status) (e : ErrorCode) :
    (st.err = true ∧ st.record e = st) ∨
    (st.err = false ∧ st.record e = { st with err := true, errcode := e.code }) := by
  unfold Status.record
  cases h : st.err <;> simp

@[simp] theorem Status.record_done (st : Status) (e : ErrorCode) : (st.record e).done = st.done := by
  unfold Status.record; split <;> rfl
@[simp] theorem Status.record_aborted (st : Status) (e : ErrorCode) : (st.record e).aborted = st.aborted := by
  unfold Status.record; split <;> rfl
@[simp] theorem Status.record_werr (st : Status) (e : ErrorCode) : (st.record e).werr = st.werr := by
  unfold Status.record; split <;> rfl

/-! ## Commands -/

/-- START either raises the first failing check's error or accepts the job. -/
theorem State.startJob_cases (s : State) (j : Job) :
    (∃ e, s.startError j = some e ∧ s.startJob j = s.raiseError e) ∨
    (s.startError j = none ∧ s.startJob j = s.acceptJob j) := by
  unfold State.startJob
  cases h : s.startError j with
  | none => exact .inr ⟨rfl, rfl⟩
  | some e => exact .inl ⟨e, rfl, rfl⟩

/-- Every check of START has passed exactly when the engine is idle and the job's operands are legal. -/
theorem State.startError_none_iff (s : State) (j : Job) :
    s.startError j = none ↔ s.engine = .idle ∧
      (j.demodulates = true → 1000 ≤ s.sampleRate ∧ s.sampleCount ≤ s.sampleCap) ∧
      (j = .frame → s.bitLength ≤ s.bitCap) := by
  cases hE : s.engine with
  | busy k => simp [State.startError, hE]
  | idle =>
    by_cases hs : s.sampleRate < 1000 <;> by_cases hn : s.sampleCount > s.sampleCap <;>
      by_cases hb : s.bitLength > s.bitCap <;>
      cases j <;> simp [State.startError, hE, Job.demodulates, Config.minSampleRate, hs, hn, hb] <;> omega

/-- ABORT either finds the engine idle and does nothing, or ends the job and makes its outputs draws. -/
theorem State.abortJob_cases (s : State) :
    (s.engine = .idle ∧ s.abortJob = s) ∨
    (∃ j, s.engine = .busy j ∧ s.abortJob = (s.drawOutputs j).endAborted) := by
  unfold State.abortJob
  cases h : s.engine with
  | idle => exact .inl ⟨rfl, rfl⟩
  | busy j => exact .inr ⟨j, rfl, rfl⟩

/-- A write to CMD does what the command it carries does, or raises ILLEGAL_CMD. -/
theorem State.onCmd_cases (s : State) (v : Word) :
    (∃ r, decodeCommand v = .error r ∧ s.onCmd v = s.raiseError .illegalCmd) ∨
    (decodeCommand v = .ok .nop ∧ s.onCmd v = s) ∨
    (∃ j : Job, s.onCmd v = s.startJob j ∧
      (decodeCommand v = .ok .run ∧ j = .run ∨ decodeCommand v = .ok .demod ∧ j = .demod ∨
        decodeCommand v = .ok .frame ∧ j = .frame)) ∨
    (decodeCommand v = .ok .abort ∧ s.onCmd v = s.abortJob) := by
  unfold State.onCmd
  cases h : decodeCommand v with
  | error r => exact .inl ⟨r, rfl, rfl⟩
  | ok c =>
    cases c with
    | nop => exact .inr (.inl ⟨rfl, rfl⟩)
    | run => exact .inr (.inr (.inl ⟨.run, rfl, .inl ⟨rfl, rfl⟩⟩))
    | demod => exact .inr (.inr (.inl ⟨.demod, rfl, .inr (.inl ⟨rfl, rfl⟩)⟩))
    | frame => exact .inr (.inr (.inl ⟨.frame, rfl, .inr (.inr ⟨rfl, rfl⟩)⟩))
    | abort => exact .inr (.inr (.inr ⟨rfl, rfl⟩))

/-! ## The bus -/

/-- A transaction reaches a location exactly when its size is 4, its offset aligned and backed. -/
theorem State.locate_eq_some {s : State} {size : Nat} {addr : Addr} {l : Location} :
    s.locate size addr = some l ↔ size = 4 ∧ addr.toNat % 4 = 0 ∧ s.backed addr.toNat = some l := by
  unfold State.locate Config.accessSize
  split
  · simp_all
  · split <;> simp_all

/-- What a located RAM word is: an offset of the backed part of that RAM. -/
theorem State.backed_ram {s : State} {a b : Nat} {m : Ram} (h : s.backed a = some (.ram m b)) :
    b = a ∧ s.backs m a = true := by
  unfold State.backed at h
  repeat' split at h
  all_goals first
    | (simp only [Option.some.injEq, Location.ram.injEq] at h; obtain ⟨rfl, rfl⟩ := h; exact ⟨rfl, ‹_›⟩)
    | simp at h

/-- What a located register is: the register at that offset. -/
theorem State.backed_reg {s : State} {a : Nat} {r : Reg} (h : s.backed a = some (.reg r)) : Reg.at a = some r := by
  unfold State.backed at h
  repeat' split at h
  all_goals first
    | (simp at h; done)
    | simpa [Option.map_eq_some_iff] using h

/-- A register stands at its offset. -/
@[simp] theorem Reg.at_offset (r : Reg) : Reg.at r.offset = some r := by cases r <;> decide

/-- A read answers with an error response, a draw or the location's value. -/
theorem execBusRead32_cases (size : Nat) (addr : Addr) (s : State) :
    (s.locate size addr = none ∧ execBusRead32 size addr s = .next (s.respondRead 0#32 true)) ∨
    (∃ l, s.locate size addr = some l ∧ s.engine.writes l = true ∧ execBusRead32 size addr s = .next s.respondDraw) ∨
    (∃ l, s.locate size addr = some l ∧ s.engine.writes l = false ∧
      execBusRead32 size addr s = .next (s.respondRead (s.readLocation l) false)) := by
  unfold execBusRead32
  cases h : s.locate size addr with
  | none => exact .inl ⟨rfl, rfl⟩
  | some l =>
    cases hw : s.engine.writes l with
    | true => exact .inr (.inl ⟨l, rfl, hw, by simp [hw]⟩)
    | false => exact .inr (.inr ⟨l, rfl, hw, by simp [hw]⟩)

/-- A write answers with an error response, or does what its location does with the value. -/
theorem execBusWrite32_cases (size : Nat) (addr : Addr) (v : Word) (s : State) :
    (s.locate size addr = none ∧ execBusWrite32 size addr v s = .next (s.respond true)) ∨
    (∃ l, s.locate size addr = some l ∧ execBusWrite32 size addr v s = .next ((s.writeLocation v l).respond false)) := by
  unfold execBusWrite32
  cases h : s.locate size addr with
  | none => exact .inl ⟨rfl, rfl⟩
  | some l => exact .inr ⟨l, rfl, rfl⟩

/-- What a write to a location can do to the state. -/
theorem State.writeLocation_ram (s : State) (v : Word) (m : Ram) (a : Nat) :
    (m.hostWritable = true ∧ s.engine.isBusy = true ∧ s.writeLocation v (.ram m a) = s.ignoreWrite) ∨
    (m = .sample ∧ s.engine.isBusy = false ∧
      s.writeLocation v (.ram m a) = s.storeBytes a [v.extractLsb' 0 8, v.extractLsb' 8 8]) ∨
    (m = .bit ∧ s.engine.isBusy = false ∧ s.writeLocation v (.ram m a) = s.storeBytes a (wordBytes v)) ∨
    (m.hostWritable = false ∧ s.writeLocation v (.ram m a) = s) := by
  cases m <;> cases h : s.engine.isBusy <;> simp [State.writeLocation, Ram.hostWritable, State.writeRam, h]

/-! ## The step -/

/-- With a transaction at the head of the schedule, the step is the meaning of the transaction's instruction. -/
theorem step_of_host {s : State} {t : BusTransaction} (h : s.nextEvent = .host t) :
    step s = exec (decode t) s.takeEvent := by simp [step, h]

theorem step_of_engine {s : State} (h : s.nextEvent = .engine) : step s = .next s.takeEvent.engineTurn := by
  simp [step, h]

theorem step_of_reset {s : State} (h : s.nextEvent = .reset) : step s = .next s.takeEvent.resetBlock := by
  simp [step, h]

/-- The engine's turn completes the running job, or finds none. -/
theorem State.engineTurn_cases (s : State) :
    (s.engine = .idle ∧ s.engineTurn = s) ∨ (∃ j, s.engine = .busy j ∧ s.engineTurn = s.complete j) := by
  unfold State.engineTurn
  cases h : s.engine with
  | idle => exact .inl ⟨rfl, rfl⟩
  | busy j => exact .inr ⟨j, rfl, rfl⟩

end Sys2Proof.Machine
end

