-- ==== Sys2Proof/Laws/PerInstr.lean ====
section
/-! SUPPORT. Statements for all instructions, made per instruction. -/

/-- A well-formed instruction's transaction decodes to it: no field is lost between the instruction and the bus. -/
def Sys2Proof.Laws.DecodeEncode.Statement (i : Sys2Proof.Instr) : Prop :=
  i.wellFormed = true → Sys2Proof.decode (Sys2Proof.encode i) = i

theorem Sys2Proof.Laws.DecodeEncode.nop : Sys2Proof.Laws.DecodeEncode.Statement .nop := fun _ => by decide

theorem Sys2Proof.Laws.DecodeEncode.run : Sys2Proof.Laws.DecodeEncode.Statement .run := fun _ => by decide

theorem Sys2Proof.Laws.DecodeEncode.demod : Sys2Proof.Laws.DecodeEncode.Statement .demod := fun _ => by decide

theorem Sys2Proof.Laws.DecodeEncode.frame : Sys2Proof.Laws.DecodeEncode.Statement .frame := fun _ => by decide

theorem Sys2Proof.Laws.DecodeEncode.abort : Sys2Proof.Laws.DecodeEncode.Statement .abort := fun _ => by decide

theorem Sys2Proof.Laws.DecodeEncode.busRead32 (size : Nat) (addr : Sys2Proof.Addr) :
    Sys2Proof.Laws.DecodeEncode.Statement (.busRead32 size addr) := fun _ => rfl

/-- A word of 5 or more is no command. -/
theorem Sys2Proof.decodeCommand_of_five_le {v : Sys2Proof.Word} (h : 5 ≤ v.toNat) :
    ∃ r, Sys2Proof.decodeCommand v = .error r := by
  unfold Sys2Proof.decodeCommand
  split
  · exact ⟨_, rfl⟩
  · rename_i hz
    have hs : v.toNat / 16 = 0 := by
      have e := congrArg BitVec.toNat (not_not.1 hz)
      simpa [BitVec.toNat_ushiftRight, Nat.shiftRight_eq_div_pow] using e
    have hv : (v.extractLsb' 0 4).toNat = v.toNat := by
      simp only [BitVec.extractLsb'_toNat, Nat.shiftRight_zero]; omega
    rw [hv]
    split <;> first | omega | exact ⟨_, rfl⟩

theorem Sys2Proof.Laws.DecodeEncode.busWrite32 (size : Nat) (addr : Sys2Proof.Addr) (wdata : Sys2Proof.Word) :
    Sys2Proof.Laws.DecodeEncode.Statement (.busWrite32 size addr wdata) := by
  intro hw
  show Sys2Proof.decodeWrite size addr wdata = _
  unfold Sys2Proof.decodeWrite
  by_cases h : size = Sys2Proof.Config.accessSize ∧ addr = Sys2Proof.Config.cmdOffset
  · have h5 : 5 ≤ wdata.toNat := by
      have hc : Sys2Proof.isCommandWrite size addr wdata = false := by
        have h2 := (Bool.and_eq_true _ _).mp hw
        simpa using h2.2
      simpa [Sys2Proof.isCommandWrite, h.1, h.2] using hc
    obtain ⟨r, hr⟩ := Sys2Proof.decodeCommand_of_five_le h5
    rw [if_pos h, hr]
  · rw [if_neg h]
end

