-- ==== Sys2Proof/Laws/Sequences.lean ====
section
/-! SUPPORT. What the operations on sequences give: where a pattern is found, what windows and padding consist of. -/

namespace Sys2Proof.Machine

/-! ## Patterns -/

theorem isPrefixOf_iff_take (pat x : Bits) : pat.isPrefixOf x = true ↔ x.take pat.length = pat := by
  rw [List.isPrefixOf_iff_prefix, List.prefix_iff_eq_take, eq_comm]

/-- A pattern is found at the least index where it stands. -/
theorem findPattern_some {pat x : Bits} {j : Nat} (h : findPattern pat x = some j) :
    standsAt pat x j ∧ ∀ k < j, ¬ standsAt pat x k := by
  induction x generalizing j with
  | nil => simp [findPattern] at h
  | cons b bs ih =>
    rw [findPattern] at h
    split at h
    · rename_i hp
      obtain rfl : 0 = j := by simpa using h
      exact ⟨(isPrefixOf_iff_take _ _).1 hp, fun k hk => absurd hk (by omega)⟩
    · rename_i hp
      obtain ⟨i, hi, rfl⟩ := Option.map_eq_some_iff.1 h
      obtain ⟨h1, h2⟩ := ih hi
      refine ⟨by simpa [standsAt] using h1, fun k hk => ?_⟩
      cases k with
      | zero => exact fun e => hp ((isPrefixOf_iff_take _ _).2 e)
      | succ k => simpa [standsAt] using h2 k (by omega)

/-- A pattern that is not found stands nowhere. -/
theorem findPattern_none {pat x : Bits} (hpat : pat ≠ []) (h : findPattern pat x = none) (j : Nat) :
    ¬ standsAt pat x j := by
  induction x generalizing j with
  | nil => intro e; exact hpat (by simpa [standsAt] using e.symm)
  | cons b bs ih =>
    rw [findPattern] at h
    split at h
    · simp at h
    · rename_i hp
      cases j with
      | zero => exact fun e => hp ((isPrefixOf_iff_take _ _).2 e)
      | succ j => simpa [standsAt] using ih (by simpa using h) j

/-- A pattern that is found lies within the sequence. -/
theorem findPattern_le {pat x : Bits} {j : Nat} (hpat : pat ≠ []) (h : findPattern pat x = some j) :
    j + pat.length ≤ x.length := by
  have e := congrArg List.length (findPattern_some h).1
  have : 0 < pat.length := List.length_pos_of_ne_nil hpat
  simp only [List.length_take, List.length_drop] at e
  omega

@[simp] theorem flagPattern_length : flagPattern.length = 8 := rfl
@[simp] theorem inactivePattern_length : inactivePattern.length = 15 := rfl
@[simp] theorem stuffPattern_length : stuffPattern.length = 6 := rfl

/-! ## Windows, padding, rolling -/

/-- Windows put together again are the sequence. -/
theorem chunksUpTo_flatten {α : Type} {size n : Nat} (xs : List α) (hs : 0 < size) (hn : xs.length ≤ n) :
    (chunksUpTo size n xs).flatten = xs := by
  induction n generalizing xs with
  | zero => simp [chunksUpTo, List.length_eq_zero_iff.1 (Nat.le_zero.1 hn)]
  | succ n ih =>
    cases xs with
    | nil => rfl
    | cons x xs =>
      rw [chunksUpTo, List.flatten_cons, ih _ (by simp at hn ⊢; omega), List.take_append_drop]

theorem chunks_flatten {α : Type} {size : Nat} (xs : List α) (hs : 0 < size) : (chunks size xs).flatten = xs :=
  chunksUpTo_flatten xs hs (Nat.le_refl _)

theorem chunksUpTo_length {α : Type} {size n : Nat} (xs : List α) (hs : 0 < size) (hn : xs.length ≤ n) :
    (chunksUpTo size n xs).length = (xs.length + size - 1) / size := by
  induction n generalizing xs with
  | zero =>
    obtain rfl := List.length_eq_zero_iff.1 (Nat.le_zero.1 hn)
    simp [chunksUpTo, Nat.div_eq_of_lt (Nat.sub_lt hs Nat.one_pos)]
  | succ n ih =>
    cases xs with
    | nil => simp [chunksUpTo, Nat.div_eq_of_lt (Nat.sub_lt hs Nat.one_pos)]
    | cons x xs =>
      rw [chunksUpTo, List.length_cons, ih _ (by simp at hn ⊢; omega), List.length_drop]
      have hl : 0 < (x :: xs).length := by simp
      generalize (x :: xs).length = len at *
      by_cases hc : len ≤ size
      · rw [Nat.sub_eq_zero_of_le hc, Nat.zero_add, Nat.div_eq_of_lt (Nat.sub_lt hs Nat.one_pos),
          show len + size - 1 = len - 1 + size by omega, Nat.add_div_right _ hs, Nat.div_eq_of_lt (by omega)]
      · rw [show len - size + size - 1 = len - 1 by omega, show len + size - 1 = len - 1 + size by omega,
          Nat.add_div_right _ hs]

theorem padTo_length {α : Type} (size : Nat) (z : α) (xs : List α) (hs : 0 < size) :
    (padTo size z xs).length = size * ((xs.length + size - 1) / size) := by
  rw [padTo, List.length_append, List.length_replicate]
  generalize xs.length = len
  have hd := Nat.div_add_mod len size
  have hr := Nat.mod_lt len hs
  generalize len / size = q at *
  generalize len % size = r at *
  by_cases h0 : r = 0
  · rw [h0, Nat.sub_zero, Nat.mod_self, show len + size - 1 = size - 1 + size * q by omega,
      Nat.add_mul_div_left _ _ hs, Nat.div_eq_of_lt (by omega), Nat.zero_add]
    omega
  · rw [Nat.mod_eq_of_lt (by omega), show len + size - 1 = r - 1 + size * (q + 1) by rw [Nat.mul_add]; omega,
      Nat.add_mul_div_left _ _ hs, Nat.div_eq_of_lt (by omega), Nat.zero_add, Nat.mul_add]
    omega

@[simp] theorem roll_length {α : Type} (unit : Nat) (s : List α) : (roll unit s).length = s.length := by
  simp only [roll, List.length_append, List.length_drop, List.length_take]; omega

end Sys2Proof.Machine
end

