-- ==== Sys2Proof/Laws/Pipeline.lean ====
section
/-! SUPPORT. What the pipeline's operations give, run by run and candidate by candidate. -/

namespace Sys2Proof.Machine

/-! ## The demodulator -/

theorem bitval_eq (l : Byte) : bitval l = if l.toNat < 127 then false else true := by
  unfold bitval
  split <;> simp <;> omega

theorem runBits_eq (sr : Nat) (r : Byte × Nat) :
    runBits sr r = List.replicate (rhe (r.2 * 300) sr) (if r.1.toNat < 127 then false else true) := by
  rw [runBits, bitval_eq, Config.baud]

/-- The bits of a stream, given its emitted runs. -/
theorem demodulate_of_emittedRuns {sr t : Nat} {s : List Int} {rs : List (Byte × Nat)}
    (h : emittedRuns (sampleLevels sr t s) = rs) :
    demodulate sr t s = rs.flatMap fun r =>
      List.replicate (rhe (r.2 * 300) sr) (if r.1.toNat < 127 then false else true) := by
  rw [demodulate, h]
  exact congrArg (List.flatMap · rs) (funext (runBits_eq sr))

/-! ## The frame extractor -/

@[simp] theorem processAll_length (off : Nat) (cs : List Candidate) : (processAll off cs).length = cs.length := by
  induction cs generalizing off with
  | nil => rfl
  | cons c cs ih => simp [processAll, ih]

/-- NBYTES counts the bytes a candidate puts into frame RAM. -/
theorem processCandidate_nbytes (c : Candidate) (off : Nat) :
    (processCandidate c off).1.nbytes = (processCandidate c off).2.length := by
  unfold processCandidate
  split
  · rfl
  split
  · rfl
  · unfold fieldSteps describe
    split <;> rfl

/-- The n-th result is that of the n-th candidate at the write index the results before it leave. -/
theorem processAll_getElem? (off : Nat) (cs : List Candidate) (n : Nat) :
    (processAll off cs)[n]? = cs[n]?.map fun c =>
      processCandidate c (off + (((processAll off cs).take n).map fun r => r.1.nbytes).sum) := by
  induction cs generalizing off n with
  | nil => rfl
  | cons c cs ih =>
    cases n with
    | zero => simp [processAll]
    | succ n => simp [processAll, ih, processCandidate_nbytes, Nat.add_assoc]

end Sys2Proof.Machine
end

