-- ==== Sys2Proof/Tests/Slice0.lean ====
section
/-! SUPPORT. Tests: words decoded by hand, the vectors of 95_test_vectors.md on one operation or one step each, the smoke
test of WellFormed, and for every statement with hypotheses a witness that meets them. -/

namespace Sys2Proof.Tests

open Sys2Proof Sys2Proof.Machine

/-! ## Helpers -/

/-- A field of the next state. -/
def answer {α : Type} (o : Host.Outcome State Fault Refusal) (f : State → α) : Option α :=
  match o with
  | .next t => some (f t)
  | .fault _ => none
  | .refused _ => none

/-- A bit sequence from its numerals. -/
def bitSeq (l : List Nat) : Bits := l.map fun n => decide (n = 1)

/-- The smallest block, SAMPLE_CAP = 32, right after reset. -/
def small : State := { State.reset with capUnits := 0 }

/-- The smallest block with operands at the ends of their legal ranges. -/
def ready : State := { small with sr := 1000#18, nsamp := 32#23, bitcount := 32#23 }

/-- The same with a job running. -/
def busy (j : Job) : State := { ready with engine := .busy j }

/-- STATUS as read. -/
def status (s : State) : Word := s.readReg .status

/-! ## Decoding: words written out from the spec's encodings (30_encoding.md R151, R152, R150) -/

theorem test_decode_nop : decodeTableWord 32 0b00000000000000000000000000000000 = some .nop := by decide
theorem test_decode_run : decodeTableWord 32 0b00000000000000000000000000000001 = some .run := by decide
theorem test_decode_demod : decodeTableWord 32 0b00000000000000000000000000000010 = some .demod := by decide
theorem test_decode_frame : decodeTableWord 32 0b00000000000000000000000000000011 = some .frame := by decide
theorem test_decode_abort : decodeTableWord 32 0b00000000000000000000000000000100 = some .abort := by decide
theorem test_decode_read_row : decodeTableWord 8 0b0 = some (.busRead32 4 0#26) := by decide
theorem test_decode_write_row : decodeTableWord 8 0b1 = some (.busWrite32 4 0#26 0#32) := by decide

/-- WDATA 0x12345678, ADDR 0x2000004, SIZE 4, WE 1. -/
theorem test_decode_write_fields :
    decodeBits (0x12345678#32 ++ 0x2000004#26 ++ 0b0000000#7 ++ 0b1#1) = .busWrite32 4 0x2000004#26 0x12345678#32 := by
  decide

/-- ADDR 0x3FFFFFF, SIZE 2 (exclusive-or 4 is 6), WE 0. -/
theorem test_decode_read_fields :
    decodeBits (0#32 ++ 0x3FFFFFF#26 ++ 0b0000110#7 ++ 0b0#1) = .busRead32 2 0x3FFFFFF#26 := by decide

theorem test_decode_reserved_opcode : decodeCommand 0x00000005#32 = .error .reservedOpcode := by decide
theorem test_decode_reserved_bits : decodeCommand 0x00000011#32 = .error .reservedBits := by decide
theorem test_decode_reserved_edges : decodeCommand 0x0000000F#32 = .error .reservedOpcode ∧
    decodeCommand 0x00000010#32 = .error .reservedBits ∧ decodeCommand 0x80000001#32 = .error .reservedBits := by decide

/-- A command word at another offset, or of another size, is no command. -/
theorem test_decode_not_cmd : decode { we := true, size := 4, addr := 0x010#26, wdata := 1#32 }
    = .busWrite32 4 0x010#26 1#32 := by decide
theorem test_decode_narrow_cmd : decode { we := true, size := 2, addr := 0x014#26, wdata := 1#32 }
    = .busWrite32 2 0x014#26 1#32 := by decide

/-- Every row of the opcode table runs as the first instruction after reset. -/
theorem test_fetch_rows : [(32, 0), (32, 1), (32, 2), (32, 3), (32, 4), (8, 0), (8, 1), (8, 16), (8, 17)].map
    (fun p => answer (step (State.reset.withFetchWord p.1 p.2)) (fun t => (status t, t.rdata, t.resp)))
    = [some (0x0#32, 0#32, false), some (0x304#32, 0#32, false), some (0x304#32, 0#32, false), some (0x1#32, 0#32, false),
      some (0x0#32, 0#32, false), some (0x0#32, 0x46534B44#32, false), some (0x0#32, 0#32, false),
      some (0x0#32, 0#32, true), some (0x0#32, 0#32, true)] := by decide

/-! ## WellFormed: an ill-formed term for each check -/

theorem test_ill_formed_size : (Instr.busRead32 128 0#26).wellFormed = false := by decide
theorem test_ill_formed_write_size : (Instr.busWrite32 128 0#26 0#32).wellFormed = false := by decide
theorem test_ill_formed_command_write : (Instr.busWrite32 4 0x014#26 4#32).wellFormed = false := by decide
theorem test_well_formed_illegal_word : (Instr.busWrite32 4 0x014#26 5#32).wellFormed = true := by decide

/-! ## Commands (95_test_vectors.md 2.7); SAMPLE_CAP = 2^22 -/

/-- The start state of the table. -/
def idle8000 : State := { State.reset with sr := 8000#18 }

theorem test_k1 : answer (exec (.busWrite32 4 0x014#26 0x5#32) idle8000) status = some 0x104#32 := by decide
theorem test_k2 : answer (exec (.busWrite32 4 0x014#26 0x11#32) idle8000) status = some 0x104#32 := by decide
theorem test_k3 : answer (exec .run State.reset) status = some 0x304#32 := by decide
theorem test_k4 : answer (exec .demod { idle8000 with sr := 999#18 }) status = some 0x304#32 := by decide
theorem test_k5 : answer (exec .demod { idle8000 with sr := 1000#18 }) status = some 0x1#32 := by decide
theorem test_k6 : answer (exec .run { idle8000 with nsamp := 0x400000#23 }) status = some 0x1#32 := by decide
theorem test_k7 : answer (exec .run { idle8000 with nsamp := 0x400001#23 }) status = some 0x404#32 := by decide
theorem test_k8 : answer (exec .run { State.reset with nsamp := 0x7FFFFF#23 }) status = some 0x304#32 := by decide
theorem test_k9 : answer (exec .frame { idle8000 with bitcount := 0x400001#23 }) status = some 0x504#32 := by decide
theorem test_k10 : answer (exec .frame State.reset) status = some 0x1#32 := by decide
theorem test_k11 : answer (exec .run (busy .run)) status = some 0x205#32 := by decide
theorem test_k12 : answer (exec (.busWrite32 4 0x014#26 0x7#32) (busy .run)) status = some 0x105#32 := by decide
theorem test_k13 : answer (exec .nop (busy .run)) status = some 0x1#32 := by decide
theorem test_k14 : answer (exec .abort (busy .run)) status = some 0x8#32 := by decide
theorem test_k15 : answer (exec .abort { idle8000 with status := { idle8000.status with done := true } }) status
    = some 0x2#32 := by decide
theorem test_k17 : answer (exec (.busWrite32 4 0x018#26 0x4#32)
    { idle8000 with status := { done := true, err := true, aborted := false, werr := true, errcode := 1#4 } }) status
    = some 0x12#32 := by decide
theorem test_k19 : answer (exec (.busWrite32 4 0x020#26 2000#32) (busy .run)) (fun t => (status t, t.sr))
    = some (0x11#32, 1000#18) := by decide
theorem test_k20 : answer (exec (.busWrite32 4 0x010#26 1#32) (busy .run)) (fun t => (status t, t.irqEn))
    = some (0x1#32, true) := by decide

/-! ## Bus transactions (95_test_vectors.md 2.8) -/

theorem test_b1 : answer (exec (.busRead32 4 0x008#26) State.reset) (fun t => (t.rdata, t.resp))
    = some (0x00400000#32, false) := by decide
theorem test_b2 : answer (exec (.busRead32 4 0xFFC#26) State.reset) (fun t => (t.rdata, t.resp)) = some (0#32, true) := by
  decide
theorem test_b3 : answer (exec (.busRead32 4 0x0001000#26) State.reset) State.resp = some true := by decide
theorem test_b4 : answer (exec (.busRead32 4 0x002#26) State.reset) State.resp = some true := by decide
theorem test_b5 : answer (exec (.busWrite32 4 0x020#26 0xFFFFFFFF#32) State.reset) (State.readReg · .sr)
    = some 0x0003FFFF#32 := by decide
theorem test_b7 : answer (exec (.busWrite32 4 0x028#26 0x00800000#32) State.reset) (State.readReg · .nsamp)
    = some 0#32 := by decide
theorem test_b8 : answer (exec (.busWrite32 4 0x2000000#26 0x1234C000#32) State.reset)
    (fun t => answer (exec (.busRead32 4 0x2000000#26) t) State.rdata) = some (some 0xFFFFC000#32) := by decide
theorem test_b12 : answer (exec (.busWrite32 4 0x0800000#26 0x12345678#32) State.reset) (fun t => (t.mem, t.resp, status t))
    = some ([], false, 0#32) := by decide
theorem test_b13 : answer (exec (.busRead32 4 0x2001000#26) { State.reset with capUnits := 31 }) State.resp
    = some true ∧ answer (exec (.busRead32 4 0x0400080#26) { State.reset with capUnits := 31 }) State.resp
    = some true := by decide

/-- V-B14: the draw itself has no known value; the read uses one draw up. -/
theorem test_b14 : answer (exec (.busRead32 4 0x02C#26) (busy .demod)) (fun t => (t.resp, t.epochs.next))
    = some (false, 2) := by decide
theorem test_b15 : answer (exec (.busRead32 4 0x030#26) (busy .demod)) State.rdata = some 0#32 := by decide

/-! ## The demodulator (95_test_vectors.md 2.1) -/

/-- V-D10, the samples of program P2. -/
def samplesP2 : List Int :=
  List.replicate 10 16384 ++ List.replicate 5 0 ++ [16384, -16384, 16384, -16384, 16384, -16384, 16384, -16384, 16384]
    ++ [16384, 16384]

theorem test_d7_d6 : demodulate 1000 7 [2, 2, 2, 2, -2, 2, 2, 2] = bitSeq [1, 0] ∧
    demodulate 1000 8 [2, 2, 2, 2, -2, 2, 2, 2] = [] := by decide
theorem test_d10 : emittedRuns (sampleLevels 1000 1073741 samplesP2) = [(254#8, 10), (127#8, 6), (0#8, 8)] ∧
    demodulate 1000 1073741 samplesP2 = bitSeq [1, 1, 1, 1, 1, 0, 0] := by decide
theorem test_d11 : sampleLevels 1000 1073741 [16384, 16384, 16384, 16384, -16384] = [0#8, 254#8, 254#8, 254#8, 0#8] := by
  decide
theorem test_d14 : demodulate 8000 1073741
    (List.replicate 48 16384 ++ List.replicate 48 (-16384) ++ List.replicate 8 16384) = bitSeq [1, 1, 1, 1] := by decide
theorem test_d15 : sampleLevels 3000 1073741 [16384, 16384, 16384, -16384, -16384, -16384, 16384, 16384, 16384, -16384]
    = [254#8, 254#8, 254#8, 0#8, 0#8, 0#8, 0#8, 0#8, 0#8, 0#8] := by decide
theorem test_rhe_ties : [5, 15, 25].map (fun rl => rhe (300 * rl) 1000) = [2, 4, 8] ∧ rhe 12000 8000 = 2 := by decide

/-! ## Destuffing, packing, CRC, frames (95_test_vectors.md 2.2 to 2.6) -/

theorem test_s2 : destuff (bitSeq [1, 1, 1, 1, 1, 0, 1, 1, 1, 1, 0]) = bitSeq [1, 1, 1, 1, 1, 1, 1, 1, 1, 0] ∧
    stuff (bitSeq [1, 1, 1, 1, 1, 1, 1, 1, 1, 0]) = bitSeq [1, 1, 1, 1, 1, 0, 1, 1, 1, 1, 0] := by decide
theorem test_s3 : destuff (bitSeq [1, 1, 1, 1, 1, 1, 0, 1]) = bitSeq [1, 1, 1, 1, 1, 1, 1] := by decide
theorem test_p2 : packBytes (bitSeq [0, 0, 0, 0, 0, 0, 0, 1]) = [0x80#8] := by decide
theorem test_p3 : packBytes (bitSeq [1, 1, 1, 1, 1, 1, 1, 1, 1, 0, 1]) = [0xFF#8, 0x05#8] := by decide
theorem test_c1 : crc16 [0x31#8, 0x32#8, 0x33#8, 0x34#8, 0x35#8, 0x36#8, 0x37#8, 0x38#8, 0x39#8] = 0x906E#16 := by decide +kernel
theorem test_c5 : crc16 [0xFF#8, 0x13#8, 0x81#8] = 0x2A47#16 := by decide +kernel

theorem test_f5 : splitFlags (bitSeq [0, 1, 1, 1, 1, 1, 1, 0, 1, 1, 1, 1, 1, 1, 0]) = ([(0, [])], 7) := by decide
theorem test_f11 : splitFlags (bitSeq [0, 1, 1, 1, 1, 1, 1, 0, 1, 0, 1, 1, 0, 0, 1, 1, 1, 1, 1, 1, 0, 0, 1, 1])
    = ([(0, []), (8, bitSeq [1, 0, 1, 1, 0])], 3) := by decide

/-- V-F7: fourteen ones and a zero. -/
theorem test_f7 : processCandidate (8, List.replicate 14 true ++ [false]) 0 =
    ({ cls := .dropLen, crcOk := false, resid := 6, candStart := 8, candLen := 15, dstufLen := 14, byteOff := 0,
       nbytes := 2, crcCalc := 0#16, crcRx := 0#16 }, [0xFF#8, 0x3F#8]) := by decide

/-- V-F6: fifteen ones. -/
theorem test_f6 : (processCandidate (8, List.replicate 15 true) 0).1.cls = .rejInactive := by decide

/-- V-FS3: STUFF(FF 13 80 CE 3B). -/
def candidateFS3 : Bits :=
  bitSeq [1, 1, 1, 1, 1, 0, 1, 1, 1, 1, 1, 0, 0, 0, 1, 0, 0, 0, 0, 0, 0, 0, 0, 0, 0, 1, 0, 1, 1, 1, 0, 0, 1, 1, 1, 1, 0, 1,
    1, 1, 0, 0]

theorem test_fs3_words : (fieldSteps candidateFS3 8 0).1.words
    = [0x00000008#32, 8#32, 42#32, 40#32, 0#32, 5#32, 0x3BCE3BCE#32, 0#32] := by decide +kernel
/-- 32 destuffed bits are 4 bytes, 33 are 5; a first byte 0xFE; the classes of 42_destuff_crc.md R307. -/
theorem test_field_step_classes :
    [bitSeq [1, 1, 1, 1] ++ List.replicate 28 false,
      bitSeq [0, 1, 1, 1, 1] ++ List.replicate 28 false,
      bitSeq [1, 1, 1, 1, 1, 0, 1, 1, 1] ++ List.replicate 25 false].map (fun c =>
        ((fieldSteps c 0 0).1.cls, (fieldSteps c 0 0).1.dstufLen, (fieldSteps c 0 0).1.nbytes, (fieldSteps c 0 0).1.resid))
    = [(.dropLen, 32, 4, 0), (.dropAddr, 33, 5, 1), (.accept, 33, 5, 1)] := by decide

theorem test_fs3_bytes : (fieldSteps candidateFS3 8 0).2 = [0xFF#8, 0x13#8, 0x80#8, 0xCE#8, 0x3B#8] := by decide

/-! ## Completion (95_test_vectors.md programs P1 and P2), one step each -/

/-- The five words of bit RAM of program P1, with FRAME running. -/
def runningP1 : State :=
  { State.reset with
    engine := .busy .frame, bitcount := 157#23
    mem := Memory.setBytes [] 0x0400000
      ([0x47DF7E7E#32, 0x70C8C500#32, 0xFFFBF31F#32, 0x004C0DFB#32, 0x15F80002#32].flatMap wordBytes) }

theorem test_p1_counters : answer (step runningP1) (fun t => (status t, t.counters)) =
    some (0x2#32,
      { ncand := 5#32, naccept := 1#32, ncrcOk := 1#32, nrejShort := 2#32, nrejInact := 1#32, ndropLen := 0#32,
        ndropAddr := 1#32, nframeBytes := 12#32, tailbits := 3#32 }) := by decide +kernel
theorem test_p1_ram : answer (step runningP1) (fun t =>
      (t.wordAt .frame 0x0800000, t.wordAt .frame 0x0800008, t.wordAt .desc 0x1000058, t.wordAt .desc 0x1000084))
    = some (0x314013FF#32, 0x00008013#32, 0x67DC67DC#32, 106#32) := by decide +kernel

/-- The samples of program P2, with DEMOD running. -/
def runningP2 : State :=
  { State.reset with
    engine := .busy .demod, sr := 1000#18, nsamp := 26#23
    mem := (List.range 26).flatMap fun i =>
      [(0x2000000 + 4 * i, (BitVec.ofInt 16 (samplesP2.getD i 0)).extractLsb' 0 8),
        (0x2000000 + 4 * i + 1, (BitVec.ofInt 16 (samplesP2.getD i 0)).extractLsb' 8 8)] }

theorem test_p2_bits : answer (step runningP2) (fun t => (status t, t.bitcount, t.wordAt .bit 0x0400000))
    = some (0x2#32, 7#23, 0x0000001F#32) := by decide

/-- At SR = 1000 a sample for each `true` that keeps the sign of the one before and for each `false` that changes it. -/
def tone (x : Int) : Bits → List Int
  | [] => []
  | b :: bs => (if b then x else -x) :: tone (if b then x else -x) bs

/-- Runs of 10/3 samples per bit that spell `candidateFS3` and a flag, and the run in progress at the end. -/
def samplesFS3 : List Int :=
  tone 16384 ([(true, 5), (false, 1), (true, 5), (false, 3), (true, 1), (false, 10), (true, 1), (false, 1), (true, 3),
    (false, 2), (true, 4), (false, 1), (true, 3), (false, 3), (true, 6), (false, 1), (true, 1)].flatMap
      fun r => List.replicate ((10 * r.2 + 1) / 3) r.1)

/-- A RUN of these samples, with bytes in bit and frame RAM before it. -/
def runningFS3 : State :=
  { State.reset with
    engine := .busy .run, sr := 1000#18, nsamp := BitVec.ofNat 23 samplesFS3.length
    mem := [(0x0400007, 0xFF#8), (0x0400008, 0xAB#8), (0x0800007, 0xFF#8), (0x0800008, 0xCD#8)] ++
      (samplesFS3.zipIdx.flatMap fun x =>
        [(0x2000000 + 4 * x.2, (BitVec.ofInt 16 x.1).extractLsb' 0 8),
          (0x2000000 + 4 * x.2 + 1, (BitVec.ofInt 16 x.1).extractLsb' 8 8)]) }

/-- V-FS3 from its samples: the words written, their zero-fill (R212, R317), and the bytes behind them. -/
theorem test_run_fs3 : answer (step runningFS3) (fun t =>
      (status t, t.bitcount, t.wordAt .bit 0x0400004, t.byteAt .bit 0x0400008, t.wordAt .frame 0x0800000,
        t.wordAt .frame 0x0800004, t.byteAt .frame 0x0800008, t.wordAt .desc 0x1000000, t.counters.ncrcOk))
    = some (0x2#32, 50#23, 0x0001F8EF#32, 0xAB#8, 0xCE8013FF#32, 0x0000003B#32, 0xCD#8, 0x00000008#32, 1#32) := by
  decide +kernel

/-- A RUN of no samples (V-K5, S8). -/
theorem test_empty_run : answer (step { State.reset with engine := .busy .run, sr := 8000#18 })
    (fun t => (status t, t.bitcount, t.counters.ncand, t.counters.tailbits)) = some (0x2#32, 0#23, 0#32, 0#32) := by decide

/-- V-R6: a reset ends a job with no DONE. -/
theorem test_r6 : answer (step { busy .run with schedule := [.reset] }) status = some 0#32 := by decide

/-! ## Witnesses: for each statement with hypotheses a state and operands that meet them, at the ends of their ranges -/

/-- The transaction of an accepted FRAME, and two others. -/
def frameWrite : BusTransaction := { we := true, size := 4, addr := 0x014#26, wdata := 3#32 }

theorem witness_DecodeOfEncodedRecordIsTheInstruction :
    ([.nop, .run, .demod, .frame, .abort, .busRead32 0 0#26, .busRead32 127 0x3FFFFFF#26,
      .busWrite32 127 0x3FFFFFF#26 0xFFFFFFFF#32, .busWrite32 4 0x014#26 5#32, .busWrite32 2 0x014#26 4#32] :
      List Instr).all Instr.wellFormed = true := by decide

theorem witness_StepRunsTheDecodedTransaction :
    ({ ready with schedule := [.host frameWrite, .engine] } : State).schedule = .host frameWrite :: [.engine] ∧
    Instr.frame.wellFormed = true ∧
    ({ ready with schedule := [.host (encode .frame)] } : State).schedule = .host (encode .frame) :: [] := by decide

theorem witness_EngineTurnCompletesTheRunningJob :
    ready.schedule = [] ∧ ready.engine = .idle ∧ (busy .run).schedule = [] ∧ (busy .run).engine = .busy .run ∧
    (∃ rest, ({ busy .demod with schedule := [.engine, .reset] } : State).schedule = .engine :: rest) ∧
    (busy .frame).engine = .busy .frame := by
  refine ⟨rfl, rfl, rfl, rfl, ⟨[.reset], rfl⟩, rfl⟩

theorem witness_CompletedDemodWritesTheDemodulatedBits :
    (busy .demod).nextEvent = .engine ∧ (busy .demod).engine = .busy .demod ∧ 1000 ≤ (busy .demod).sampleRate ∧
    (busy .demod).sampleCount = (busy .demod).sampleCap := by decide

theorem witness_CompletedFrameWritesItsReport :
    (busy .frame).nextEvent = .engine ∧ (busy .frame).engine = .busy .frame ∧
    (busy .frame).bitLength = (busy .frame).bitCap := by decide

theorem witness_CompletedRunReportsTheFramesOfItsSamples :
    (busy .run).nextEvent = .engine ∧ (busy .run).engine = .busy .run ∧ 1000 ≤ (busy .run).sampleRate ∧
    (busy .run).sampleCount = (busy .run).sampleCap := by decide

/-- Its zero-fill clauses and the clause on the bytes it leaves: 50 bits, 5 bytes, 1 descriptor. -/
theorem witness_CompletedRunZeroFill :
    runningFS3.nextEvent = .engine ∧ runningFS3.engine = .busy .run ∧ 1000 ≤ runningFS3.sampleRate ∧
    runningFS3.sampleCount ≤ runningFS3.sampleCap ∧ runningFS3.demodBits = candidateFS3 ++ flagPattern ∧
    (candidateFS3 ++ flagPattern).length = 50 ∧ (extractFrames (candidateFS3 ++ flagPattern)).bytes.length = 5 ∧
    (extractFrames (candidateFS3 ++ flagPattern)).descs.length = 1 := by decide +kernel

theorem witness_ResetEventGivesTheResetValues :
    ({ busy .run with schedule := [.reset, .engine] } : State).schedule = .reset :: [.engine] := rfl

theorem witness_LegalJobsAreAccepted :
    ready.engine = .idle ∧ 1000 ≤ ready.sampleRate ∧ ready.sampleCount = ready.sampleCap ∧
    ready.bitLength = ready.bitCap := by decide

theorem witness_IllegalCommandWordsRaiseIllegalCmd :
    (0x00000010#32).extractLsb' 4 28 ≠ 0#28 ∧ 5 ≤ ((0x00000005#32).extractLsb' 0 4).toNat ∧
    5 ≤ ((0x0000000F#32).extractLsb' 0 4).toNat := by decide

theorem witness_AbortMakesTheOutputsDraws :
    ready.engine = .idle ∧ (busy .run).engine = .busy .run ∧ (busy .demod).engine = .busy .demod ∧
    (busy .frame).engine = .busy .frame ∧ Ram.bit.holds 0x0400000 = true ∧ Ram.desc.holds 0x1FFFFFF = true ∧
    outputOf .run (.ram .bit 0x0400000) = true ∧ outputOf .demod (.ram .desc 0x1FFFFFF) = false := by decide

theorem witness_IdleRegisterReadsReturnTheRegister : ready.engine = .idle := rfl

theorem witness_IdleRamReadsReturnTheWord :
    ready.engine = .idle ∧ 31 < ready.sampleCap ∧ 0 < ready.bitCap / 32 ∧ 0 < ready.frameCap / 4 ∧ 3 < ready.descCap := by
  decide

theorem witness_BusyReadsOfOutputsAreDraws :
    (busy .run).locate 4 0x0400000#26 = some (.ram .bit 0x0400000) ∧ outputOf .run (.ram .bit 0x0400000) = true ∧
    (busy .demod).locate 4 0x02C#26 = some (.reg .bitcount) ∧ outputOf .demod (.reg .bitcount) = true ∧
    (busy .frame).locate 4 0x050#26 = some (.reg .tailbits) ∧ outputOf .frame (.reg .tailbits) = true ∧
    (busy .run).locate 4 0x200007C#26 = some (.ram .sample 0x200007C) ∧
    outputOf .run (.ram .sample 0x200007C) = false := by decide

/-- Each way to an error response, the first offset behind each RAM, and a backed word. -/
theorem witness_UnsupportedAccessesGetAnErrorResponse :
    (0x002#26).toNat % 4 ≠ 0 ∧ offsetBacked ready.sampleCap (0x00C#26).toNat = false ∧
    offsetBacked ready.sampleCap (0x0400004#26).toNat = false ∧
    offsetBacked ready.sampleCap (0x0800004#26).toNat = false ∧
    offsetBacked ready.sampleCap (0x1000080#26).toNat = false ∧
    offsetBacked ready.sampleCap (0x2000080#26).toNat = false ∧
    (0x200007C#26).toNat % 4 = 0 ∧ offsetBacked ready.sampleCap (0x200007C#26).toNat = true := by decide

theorem witness_ReservedRegisterOffsetsGetAnErrorResponse :
    0x054 ≤ (0x054#26).toNat ∧ (0x054#26).toNat ≤ 0xFFC ∧ 0x054 ≤ (0xFFC#26).toNat ∧ (0xFFC#26).toNat ≤ 0xFFC := by decide

theorem witness_RegisterWritesStoreTheirField : ready.engine = .idle := rfl

theorem witness_WritesToReadOnlyLocationsAreIgnored : 0 < ready.frameCap / 4 ∧ 3 < ready.descCap := by decide

theorem witness_BusyWritesToInputsOnlySetWerr :
    (busy .run).engine = .busy .run ∧ 31 < (busy .run).sampleCap ∧ 0 < (busy .run).bitCap / 32 := by decide

theorem witness_SampleWritesStoreSixteenBits : ready.engine = .idle ∧ 0 < ready.sampleCap ∧ 31 < ready.sampleCap := by
  decide

theorem witness_BitWritesStoreTheWord : ready.engine = .idle ∧ 0 < ready.bitCap / 32 := by decide

theorem witness_FrameBytesStandInTheirLanes : ready.engine = .idle ∧ 0 < ready.frameCap ∧ 3 < ready.frameCap := by decide

/-- A sample write and the word behind it; an ABORT of a DEMOD and frame RAM. -/
theorem witness_InstructionsLeaveTheOtherBytes :
    (∃ t, exec (.busWrite32 4 0x2000000#26 5#32) ready = .next t) ∧ Ram.sample.holds 0x2000004 = true ∧
    ready.locate 4 0x2000000#26 = some (.ram .sample 0x2000000) ∧ 0x2000000 + 4 ≤ 0x2000004 ∧ ready.engine = .idle ∧
    (∃ t, exec .abort (busy .demod) = .next t) ∧ Ram.frame.holds 0x0800000 = true ∧
    outputOf .demod (.ram .frame 0x0800000) = false := by
  refine ⟨⟨_, rfl⟩, by decide, by decide, by decide, rfl, ⟨_, rfl⟩, by decide, by decide⟩

theorem witness_RunningJobsAreNotDisturbed :
    (busy .run).engine = .busy .run ∧ (∃ t, exec .demod (busy .run) = .next t) ∧ (∃ t, exec .abort (busy .run) = .next t) :=
  ⟨rfl, ⟨_, rfl⟩, ⟨_, rfl⟩⟩

/-- A host write scheduled. -/
def writing (s : State) (addr : Addr) (v : Word) : State :=
  { s with schedule := [.host { we := true, size := 4, addr := addr, wdata := v }] }

/-- Each bit does get set: BUSY, DONE, ERR, ABORTED, WERR. -/
theorem witness_StatusBitsAreSetOnlyByTheirCauses :
    ready.engine = .idle ∧ answer (step (writing ready 0x014#26 1#32)) State.engine = some (.busy .run) ∧
    (busy .frame).status.done = false ∧
    answer (step { State.reset with engine := .busy .frame }) (·.status.done) = some true ∧
    answer (step (writing ready 0x014#26 5#32)) (·.status.err) = some true ∧
    answer (step (writing State.reset 0x014#26 1#32)) (·.status.err) = some true ∧
    answer (step (writing (busy .run) 0x014#26 4#32)) (·.status.aborted) = some true ∧
    answer (step (writing (busy .run) 0x200007C#26 0#32)) (·.status.werr) = some true := by decide

/-- A block in which every flag is set, idle. -/
def flagged : State := { ready with status := { done := true, err := true, aborted := true, werr := true, errcode := 5#4 } }

/-- Each bit does get cleared: by its W1C bit, DONE and ABORTED by acceptance, BUSY by completion and by ABORT. -/
theorem witness_StatusBitsAreClearedOnlyByTheirCauses :
    (writing flagged 0x018#26 0x1E#32).nextEvent ≠ .reset ∧
    answer (step (writing flagged 0x018#26 0x1E#32)) State.status = some State.reset.status ∧
    answer (step (writing flagged 0x014#26 3#32)) (fun t => (t.status.done, t.status.aborted)) = some (false, false) ∧
    answer (step { State.reset with engine := .busy .frame }) State.engine = some .idle ∧
    answer (step (writing (busy .run) 0x014#26 4#32)) State.engine = some .idle := by decide

theorem witness_IrqFollowsDoneAndErr :
    ({ busy .run with irqEn := true } : State).nextEvent = .engine ∧
    ({ busy .run with irqEn := true } : State).engine ≠ .idle ∧ ({ busy .run with irqEn := true } : State).irqEn = true ∧
    ready.engine = .idle ∧ ready.status.err = false ∧ 1000 ≤ ready.sampleRate ∧ ready.sampleCount = ready.sampleCap ∧
    ready.bitLength = ready.bitCap := by decide

theorem witness_EveryStepKeepsTheStateLegal :
    (busy .run).legal = true ∧ (∃ t, step (busy .run) = .next t) ∧ (busy .demod).legal = true ∧
    (busy .frame).legal = true ∧ runningP1.legal = true ∧ flagged.legal = true := by
  refine ⟨by decide, ⟨_, rfl⟩, by decide, by decide, by decide +kernel, by decide⟩

theorem witness_CorrelationIsTheCircularProduct : (0 < [3, -2, 5].length ∧ 2 < ([3, -2, 5] : List Int).length) ∧
    correlate 2 [3, -2, 5] = [-12, -20, 30] := by decide

theorem witness_LevelsAreTheLevelsOfTheirWindows : 0 < 1 ∧ 0 < 2 ∧ 2 < ([5, 1, -9] : List Int).length ∧
    levels 4 2 [5, 1, -9] = [254#8, 254#8, 0#8] := by decide

theorem witness_EmittedRunsAreAllRunsButTheLast :
    (∀ r ∈ [(254#8, 1), (127#8, 2), (254#8, 1)], 0 < r.2) ∧
    ∀ n < 2, ([(254#8, 1), (127#8, 2), (254#8, 1)].getD n (0#8, 0)).1
      ≠ ([(254#8, 1), (127#8, 2), (254#8, 1)].getD (n + 1) (0#8, 0)).1 := by decide

/-- The clause on the bits: the runs of V-D7. -/
theorem witness_DemodulatedBitsRunByRun :
    (∀ r ∈ [(254#8, 4), (0#8, 2), (254#8, 2)], 0 < r.2) ∧
    (∀ n < 2, ([(254#8, 4), (0#8, 2), (254#8, 2)].getD n (0#8, 0)).1
      ≠ ([(254#8, 4), (0#8, 2), (254#8, 2)].getD (n + 1) (0#8, 0)).1) ∧
    levels 7 (1000 / 1000) (correlate (1000 / 1000) [2, 2, 2, 2, -2, 2, 2, 2])
      = [(254#8, 4), (0#8, 2), (254#8, 2)].flatMap (fun r => List.replicate r.2 r.1) := by decide

theorem witness_EmittedRunsAreWholeWindows : 0 < 2 ∧ (254#8, 2) ∈ emittedRuns (levels 4 2 [5, 1, -9]) := by decide

theorem witness_RheRoundsToNearestTiesToEven : 0 < 1000 ∧ 2 * 1500 - 2 * 1000 * 1 = 1000 ∧ rhe 1500 1000 = 2 := by decide

theorem witness_DemodulatedBitsFitBitRam : 1000 ≤ 1000 ∧
    (demodulate 1000 7 [2, 2, 2, 2, -2, 2, 2, 2]).length = 2 := by decide

/-- Two machines that differ in flags, counters and the rest of sample RAM and agree on a RUN's inputs. -/
theorem witness_RunDependsOnlyOnItsInputs :
    let s := { busy .run with nsamp := 1#23, mem := [(0x2000000, 1#8), (0x2000001, 0#8)] }
    let s' := { busy .run with nsamp := 1#23, mem := [(0x2000000, 1#8), (0x2000001, 0#8), (0x2000004, 7#8)], irqEn := true }
    s.engine = .busy .run ∧ s'.engine = .busy .run ∧ s.nextEvent = .engine ∧ s'.nextEvent = .engine ∧ s.sr = s'.sr ∧
    s.thresh = s'.thresh ∧ s.nsamp = s'.nsamp ∧ ∀ i < s.sampleCount, s.sampleAt i = s'.sampleAt i := by decide

/-- Seven bits; eight bits and more with the fifteen ones at the end, and with fourteen. -/
theorem witness_ShortAndInactiveCandidatesAreRejected :
    (bitSeq [1, 1, 0, 0, 1, 1, 0]).length = 7 ∧
    standsAt (List.replicate 15 true) (bitSeq [0, 0, 1, 0, 0] ++ List.replicate 15 true) 5 ∧
    findPattern inactivePattern (List.replicate 14 true ++ [false]) = none := by decide

/-- A second candidate at write index 0 behind an empty first one, and a descriptor of it. -/
theorem witness_DescriptorsAddUp :
    (splitFlags (flagPattern ++ candidateFS3 ++ flagPattern)).1[1]? = some (8, candidateFS3) ∧
    ((extractFrames (flagPattern ++ candidateFS3 ++ flagPattern)).descs[1]?.map Descriptor.nbytes) = some 5 := by
  decide +kernel

theorem witness_DescriptorWordsHoldTheFields : (rejected .rejShort [] 0 0).resid < 8 ∧ 7 < 8 := by decide

theorem witness_SingleBitErrorsAreDetected :
    2 ≤ [0xFF#8, 0x13#8, 0x80#8, 0xCE#8, 0x3B#8].length ∧ 4 < [0xFF#8, 0x13#8, 0x80#8, 0xCE#8, 0x3B#8].length ∧ 7 < 8 ∧
    crcCalc [0xFF#8, 0x13#8, 0x80#8, 0xCE#8, 0x3B#8] = crcRx [0xFF#8, 0x13#8, 0x80#8, 0xCE#8, 0x3B#8] ∧
    crcCalc [0#8, 0#8] = crcRx [0#8, 0#8] := by decide +kernel

theorem witness_GoodFramesHaveTheConstantResidue :
    crc16 [0xFF#8, 0x13#8, 0x80#8, 0xCE#8, 0x3B#8] = 0x0F47#16 ∧ crc16 [0#8, 0#8] = 0x0F47#16 := by decide +kernel

end Sys2Proof.Tests
end

section
/-! PROOFS. The register window of the address map and the transactions that reach it or miss it: what O27 and O29 rest
on. -/

namespace Sys2Proof.Machine

/-! ## The bus instructions by the location they reach -/

@[simp] theorem exec_busRead32 (size : Nat) (addr : Addr) (s : State) :
    exec (.busRead32 size addr) s = execBusRead32 size addr s := rfl

@[simp] theorem exec_busWrite32 (size : Nat) (addr : Addr) (v : Word) (s : State) :
    exec (.busWrite32 size addr v) s = execBusWrite32 size addr v s := rfl

theorem execBusRead32_of_locate_none {s : State} {size : Nat} {addr : Addr} (h : s.locate size addr = none) :
    execBusRead32 size addr s = .next (s.respondRead 0#32 true) := by
  simp [execBusRead32, h]

theorem execBusWrite32_of_locate_none {s : State} {size : Nat} {addr : Addr} (h : s.locate size addr = none)
    (v : Word) :
    execBusWrite32 size addr v s = .next (s.respond true) := by
  simp [execBusWrite32, h]

theorem execBusWrite32_of_locate_some {s : State} {size : Nat} {addr : Addr} {l : Location}
    (h : s.locate size addr = some l) (v : Word) :
    execBusWrite32 size addr v s = .next ((s.writeLocation v l).respond false) := by
  simp [execBusWrite32, h]

/-! ## The register window -/

/-- Below 0x1000 the map has the registers and nothing else (20_memory.md R101). -/
theorem State.backed_of_lt {s : State} {a : Nat} (h : a < 0x1000) : s.backed a = (Reg.at a).map .reg := if_pos h

theorem Reg.offset_lt (r : Reg) : r.offset < 0x1000 := by cases r <;> decide

theorem Reg.offset_aligned (r : Reg) : r.offset % 4 = 0 := by cases r <;> rfl

/-- An offset with a register is that register's own (10_state.md R32). -/
theorem Reg.offset_of_at {a : Nat} {r : Reg} (h : Reg.at a = some r) : r.offset = a := by
  simpa using List.find?_some h

/-- An aligned access at a register's offset reaches the register. -/
theorem State.locate_of_toNat_eq_offset (s : State) {addr : Addr} {r : Reg} (h : addr.toNat = r.offset) :
    s.locate 4 addr = some (.reg r) := by
  have hbacked : s.backed r.offset = some (.reg r) := by simp [State.backed_of_lt r.offset_lt]
  exact State.locate_eq_some.2 ⟨rfl, h ▸ r.offset_aligned, h ▸ hbacked⟩

/-- An offset below 0x1000 where no register stands is an error response for every size (10_state.md R53). -/
theorem State.locate_of_at_eq_none (s : State) (size : Nat) {addr : Addr} (hlt : addr.toNat < 0x1000)
    (hat : Reg.at addr.toNat = none) : s.locate size addr = none := by
  have hbacked : s.backed addr.toNat = none := by simp [State.backed_of_lt hlt, hat]
  refine Option.eq_none_iff_forall_ne_some.2 fun l hl => ?_
  obtain ⟨-, -, hsome⟩ := State.locate_eq_some.1 hl
  simp [hbacked] at hsome

/-! ## The reserved offsets -/

/-- The reserved register offsets as 10_state.md R53 lists them. -/
def reservedOffset (a : Nat) : Prop := a = 0x00C ∨ a = 0x01C ∨ 0x054 ≤ a ∧ a ≤ 0xFFC

theorem reservedOffset.lt {a : Nat} (h : reservedOffset a) : a < 0x1000 := by
  unfold reservedOffset at h
  omega

theorem Reg.not_reservedOffset (r : Reg) : ¬ reservedOffset r.offset := by
  cases r <;> simp [reservedOffset, Reg.offset]

theorem Reg.at_of_reservedOffset {a : Nat} (h : reservedOffset a) : Reg.at a = none :=
  Option.eq_none_iff_forall_ne_some.2 fun r hr => r.not_reservedOffset (Reg.offset_of_at hr ▸ h)

theorem State.locate_of_reservedOffset (s : State) (size : Nat) {addr : Addr} (h : reservedOffset addr.toNat) :
    s.locate size addr = none :=
  s.locate_of_at_eq_none size h.lt (Reg.at_of_reservedOffset h)

/-! ## STATUS -/

/-- The W1C write bit by bit: a 1 clears, a 0 keeps, and ERR takes ERRCODE with it (10_state.md R39). -/
theorem Status.w1c_eq_ite (st : Status) (v : Word) : st.w1c v =
    { done := if v.getLsbD 1 then false else st.done
      err := if v.getLsbD 2 then false else st.err
      aborted := if v.getLsbD 3 then false else st.aborted
      werr := if v.getLsbD 4 then false else st.werr
      errcode := if v.getLsbD 2 then 0#4 else st.errcode } := by
  simp [Status.w1c, Bool.and_comm]

@[simp] theorem State.writeLocation_status (s : State) (v : Word) :
    s.writeLocation v (.reg .status) = s.writeStatus v := rfl

end Sys2Proof.Machine

open Sys2Proof Sys2Proof.Machine

/-- Settles O27: no register stands at a reserved offset, so the transaction reaches no location. -/
theorem reservedRegisterOffsetsGetAnErrorResponse : Obligations.ReservedRegisterOffsetsGetAnErrorResponse := by
  intro s addr v h
  have hreserved : reservedOffset addr.toNat := by
    rcases h with rfl | rfl | hrange
    · exact .inl rfl
    · exact .inr (.inl rfl)
    · exact .inr (.inr hrange)
  have hnone : s.locate 4 addr = none := s.locate_of_reservedOffset 4 hreserved
  rw [exec_busRead32, exec_busWrite32, execBusRead32_of_locate_none hnone, execBusWrite32_of_locate_none hnone]
  exact ⟨rfl, rfl⟩

/-- Settles O29: the write reaches STATUS, whose W1C write is `Status.w1c` and nothing else. -/
theorem statusWriteClearsTheWrittenOnes : Obligations.StatusWriteClearsTheWrittenOnes := by
  intro s v
  have hlocate : s.locate 4 0x018#26 = some (.reg .status) := s.locate_of_toNat_eq_offset rfl
  rw [exec_busWrite32, execBusWrite32_of_locate_some hlocate, State.writeLocation_status, ← Status.w1c_eq_ite]
  rfl

end

section
/-! PROOFS. The RAM windows of the address map, the words that stand in them, and the transactions that reach them while
the engine is idle or busy: what O26 and O31 to O34 rest on. -/

namespace Sys2Proof.Machine

/-! ## The RAM windows -/

theorem State.backs_iff {s : State} {m : Ram} {a : Nat} :
    s.backs m a = true ↔ m.base ≤ a ∧ a < m.base + s.ramBytes m := by
  simp [State.backs]

@[simp] theorem State.ramBytes_sample (s : State) : s.ramBytes .sample = 4 * s.sampleCap := rfl
@[simp] theorem State.ramBytes_bit (s : State) : s.ramBytes .bit = 4 * (s.bitCap / 32) := rfl

/-- FRAME_CAP is a whole number of words, since SAMPLE_CAP is a multiple of 32 (00_scope.md R5). -/
@[simp] theorem State.ramBytes_frame (s : State) : s.ramBytes .frame = s.frameCap := by
  have hdvd := s.sampleCap_dvd
  show 4 * (s.sampleCap / 8 / 4) = s.sampleCap / 8
  omega

/-- The registers lie below every RAM window (20_memory.md R101). -/
theorem Ram.le_of_holds {m : Ram} {a : Nat} (h : m.holds a = true) : 0x1000 ≤ a := by
  have hbase : 0x1000 ≤ m.base := by cases m <;> decide
  have hle : m.base ≤ a := by simpa using (Bool.and_eq_true_iff.1 h).1
  exact hbase.trans hle

/-- Every window ends within the 26-bit offsets (20_memory.md R100). -/
theorem Ram.lt_of_holds {m : Ram} {a : Nat} (h : m.holds a = true) : a < 2 ^ 26 := by
  have hend : m.base + m.window ≤ 2 ^ 26 := by cases m <;> decide
  have hlt : a < m.base + m.window := by simpa using (Bool.and_eq_true_iff.1 h).2
  exact hlt.trans_le hend

/-- The windows are disjoint, so the order in which the map tries them does not matter. -/
theorem State.backed_of_backs {s : State} {m : Ram} {a : Nat} (h : s.backs m a = true) :
    s.backed a = some (.ram m a) := by
  have hholds : m.holds a = true := State.holds_of_backs h
  have hreg : ¬ a < 0x1000 := Nat.not_lt.2 (Ram.le_of_holds hholds)
  have hother : ∀ n, n ≠ m → s.backs n a = false := fun n hn =>
    Bool.eq_false_iff.2 fun hb => hn (Ram.holds_unique (State.holds_of_backs hb) hholds)
  cases m <;> simp [State.backed, hreg, h, hother]

/-- An access to word `w` of the backed part of a RAM reaches that word. -/
theorem State.locate_ramWord (s : State) (m : Ram) {w : Nat} (h : 4 * w < s.ramBytes m) :
    s.locate 4 (BitVec.ofNat 26 (m.base + 4 * w)) = some (.ram m (m.base + 4 * w)) := by
  have hbacks : s.backs m (m.base + 4 * w) = true := State.backs_iff.2 ⟨by omega, by omega⟩
  have htoNat : (BitVec.ofNat 26 (m.base + 4 * w)).toNat = m.base + 4 * w :=
    Nat.mod_eq_of_lt (Ram.lt_of_holds (State.holds_of_backs hbacks))
  have hbase : m.base % 4 = 0 := by cases m <;> rfl
  exact State.locate_eq_some.2 ⟨rfl, by omega, by rw [htoNat, State.backed_of_backs hbacks]⟩

/-! ## The backed offsets against the tables of the spec -/

/-- An offset is backed exactly when a register or the backed part of a RAM stands there. -/
theorem State.backed_isSome_iff (s : State) (a : Nat) :
    (s.backed a).isSome = true ↔ (∃ r : Reg, r.offset = a) ∨ ∃ m, s.backs m a = true := by
  constructor
  · intro h
    obtain ⟨l, hl⟩ := Option.isSome_iff_exists.1 h
    cases l with
    | reg r => exact .inl ⟨r, Reg.offset_of_at (State.backed_reg hl)⟩
    | ram m b => exact .inr ⟨m, (State.backed_ram hl).2⟩
  · rintro (⟨r, rfl⟩ | ⟨m, hm⟩)
    · simp [State.backed_of_lt r.offset_lt]
    · simp [State.backed_of_backs hm]

theorem Reg.exists_offset_iff (a : Nat) : (∃ r : Reg, r.offset = a) ↔ a ∈ Reg.all.map Reg.offset := by
  have hall : ∀ r : Reg, r ∈ Reg.all := by intro r; cases r <;> decide
  simp [hall]

/-- The tables of 20_memory.md R101 and 10_state.md R32 back the same offsets as the model's map. -/
theorem offsetBacked_eq_isSome_backed (s : State) (a : Nat) : offsetBacked s.sampleCap a = (s.backed a).isSome := by
  have hram : (∃ m, s.backs m a = true) ↔
      s.backs .bit a = true ∨ s.backs .frame a = true ∨ s.backs .desc a = true ∨ s.backs .sample a = true :=
    ⟨fun ⟨m, hm⟩ => by cases m <;> simp [hm], by rintro (h | h | h | h) <;> exact ⟨_, h⟩⟩
  rw [Bool.eq_iff_iff, State.backed_isSome_iff, Reg.exists_offset_iff, hram]
  simp only [State.backs_iff, State.ramBytes_frame, offsetBacked, Bool.or_eq_true, Bool.and_eq_true, decide_eq_true_eq,
    or_assoc]
  rfl

/-- The three ways to an error response (20_memory.md R111). -/
theorem State.locate_eq_none_iff (s : State) (size : Nat) (addr : Addr) :
    s.locate size addr = none ↔
      size ≠ 4 ∨ addr.toNat % 4 ≠ 0 ∨ offsetBacked s.sampleCap addr.toNat = false := by
  rw [offsetBacked_eq_isSome_backed]
  unfold State.locate Config.accessSize
  by_cases hsize : size = 4 <;> by_cases halign : addr.toNat % 4 = 0 <;> simp [hsize, halign]

/-! ## The bus instructions at a location -/

/-- A read of a location completes normally, draw or not. -/
theorem execBusRead32_resp_of_locate_some {s : State} {size : Nat} {addr : Addr} {l : Location}
    (h : s.locate size addr = some l) : ∃ t, execBusRead32 size addr s = .next t ∧ t.resp = false := by
  rcases execBusRead32_cases size addr s with ⟨hnone, -⟩ | ⟨-, -, -, hdraw⟩ | ⟨l', -, -, hread⟩
  · simp [h] at hnone
  · exact ⟨_, hdraw, rfl⟩
  · exact ⟨_, hread, rfl⟩

/-- While the engine is idle no location is an output, so a read answers the location's value. -/
theorem execBusRead32_of_idle {s : State} {size : Nat} {addr : Addr} {l : Location} (hidle : s.engine = .idle)
    (h : s.locate size addr = some l) :
    execBusRead32 size addr s = .next (s.respondRead (s.readLocation l) false) := by
  simp [execBusRead32, h, hidle]

/-- A write to word `w` of a RAM, by what the location does with it. -/
theorem exec_busWrite32_ramWord (s : State) (m : Ram) {w : Nat} (h : 4 * w < s.ramBytes m) (v : Word) :
    exec (.busWrite32 4 (BitVec.ofNat 26 (m.base + 4 * w)) v) s =
      .next ((s.writeLocation v (.ram m (m.base + 4 * w))).respond false) := by
  rw [exec_busWrite32, execBusWrite32_of_locate_some (s.locate_ramWord m h)]

/-- An idle read of word `w` of a RAM. -/
theorem exec_busRead32_ramWord {s : State} (hidle : s.engine = .idle) (m : Ram) {w : Nat} (h : 4 * w < s.ramBytes m) :
    exec (.busRead32 4 (BitVec.ofNat 26 (m.base + 4 * w))) s =
      .next (s.respondRead (s.readRam m (m.base + 4 * w)) false) := by
  rw [exec_busRead32, execBusRead32_of_idle hidle (s.locate_ramWord m h)]
  rfl

/-- A write to a register, by what the register does with it. -/
theorem exec_busWrite32_reg (s : State) {addr : Addr} {r : Reg} (h : addr.toNat = r.offset) (v : Word) :
    exec (.busWrite32 4 addr v) s = .next ((s.writeReg v r).respond false) := by
  rw [exec_busWrite32, execBusWrite32_of_locate_some (s.locate_of_toNat_eq_offset h)]
  rfl

/-- The host-written RAMs are inputs, so a running job makes the write ignored (20_memory.md R119). -/
theorem State.writeLocation_ram_of_busy {s : State} {j : Job} {m : Ram} (hbusy : s.engine = .busy j)
    (hm : m.hostWritable = true) (v : Word) (a : Nat) : s.writeLocation v (.ram m a) = s.ignoreWrite := by
  simp [State.writeLocation, hbusy, hm]

/-- The registers a job takes its operands from (30_encoding.md R156). -/
def Reg.isInput (r : Reg) : Prop := r = .sr ∨ r = .thresh ∨ r = .nsamp ∨ r = .bitcount

theorem State.writeReg_of_busy {s : State} {j : Job} {r : Reg} (hbusy : s.engine = .busy j) (hr : r.isInput)
    (v : Word) : s.writeReg v r = s.ignoreWrite := by
  rcases hr with rfl | rfl | rfl | rfl <;> simp [State.writeReg, hbusy]

@[simp] theorem State.writeLocation_frame (s : State) (v : Word) (a : Nat) :
    s.writeLocation v (.ram .frame a) = s := rfl

/-- The two bytes a sample write stores, the low one first (20_memory.md R104). -/
def sampleBytes (v : Word) : List Byte := [v.extractLsb' 0 8, v.extractLsb' 8 8]

theorem State.writeLocation_sample_of_idle {s : State} (hidle : s.engine = .idle) (v : Word) (a : Nat) :
    s.writeLocation v (.ram .sample a) = s.storeBytes a (sampleBytes v) := by
  simp [State.writeLocation, State.writeRam, sampleBytes, hidle]

theorem State.writeLocation_bit_of_idle {s : State} (hidle : s.engine = .idle) (v : Word) (a : Nat) :
    s.writeLocation v (.ram .bit a) = s.storeBytes a (wordBytes v) := by
  simp [State.writeLocation, State.writeRam, hidle]

/-! ## Byte lanes -/

@[simp] theorem State.readRam_respond (s : State) (e : Bool) (m : Ram) (a : Nat) :
    (s.respond e).readRam m a = s.readRam m a := rfl

/-- A byte outside the range of stored bytes. -/
theorem State.byteAt_storeBytes_outside (s : State) {a b : Nat} {bs : List Byte} (h : b < a ∨ a + bs.length ≤ b)
    (m : Ram) : (s.storeBytes a bs).byteAt m b = s.byteAt m b := by
  rw [State.byteAt_storeBytes, if_neg (by omega)]

/-- Byte `k` of the stored bytes. -/
theorem State.byteAt_storeBytes_add (s : State) {a k : Nat} {bs : List Byte} (h : k < bs.length) (m : Ram) :
    (s.storeBytes a bs).byteAt m (a + k) = bs.getD k 0#8 := by
  rw [State.byteAt_storeBytes, if_pos (by omega), Nat.add_sub_cancel_left]

@[simp] theorem wordBytes_length (v : Word) : (wordBytes v).length = 4 := rfl

theorem wordBytes_getD (v : Word) {k : Nat} (h : k < 4) : (wordBytes v).getD k 0#8 = v.extractLsb' (8 * k) 8 := by
  match k with
  | 0 | 1 | 2 | 3 => rfl

/-- Lane `k` of the word at an offset is the byte `k` behind the offset (20_memory.md R112). -/
theorem State.wordAt_lane (s : State) (m : Ram) (a : Nat) {k : Nat} (h : k < 4) :
    (s.wordAt m a).extractLsb' (8 * k) 8 = s.byteAt m (a + k) := by
  have skipLowByte {n : Nat} (x : BitVec n) (y : Byte) (i : Nat) :
      (x ++ y).extractLsb' (i + 8) 8 = x.extractLsb' i 8 := BitVec.extractLsb'_append_eq_of_le (by omega)
  match k with
  | 0 => exact BitVec.extractLsb'_append_eq_right
  | 1 => exact (skipLowByte _ _ 0).trans BitVec.extractLsb'_append_eq_right
  | 2 => exact (skipLowByte _ _ 8).trans ((skipLowByte _ _ 0).trans BitVec.extractLsb'_append_eq_right)
  | 3 => exact (skipLowByte _ _ 16).trans ((skipLowByte _ _ 8).trans BitVec.extractLsb'_append_eq_left)

/-- A word is determined by its four lanes. -/
theorem Word.eq_of_lanes {x y : Word} (h : ∀ k < 4, x.extractLsb' (8 * k) 8 = y.extractLsb' (8 * k) 8) : x = y := by
  ext i hi
  have hbit := congrArg (·.getLsbD (i % 8)) (h (i / 8) (by omega))
  simpa [Nat.mod_lt, Nat.div_add_mod, hi] using hbit

/-- A stored word is read back. -/
theorem State.wordAt_storeBytes_wordBytes (s : State) (m : Ram) (a : Nat) (v : Word) :
    (s.storeBytes a (wordBytes v)).wordAt m a = v :=
  Word.eq_of_lanes fun k hk => by
    rw [State.wordAt_lane _ _ _ hk, State.byteAt_storeBytes_add _ (by simpa using hk), wordBytes_getD v hk]

/-- Bit `b` of a stored word is bit `b mod 8` of its byte `b div 8` (20_memory.md R105). -/
theorem State.bitAt_storeBytes_wordBytes (s : State) (w : Nat) (v : Word) {b : Nat} (h : b < 32) :
    (s.storeBytes (Ram.bit.base + 4 * w) (wordBytes v)).bitAt (32 * w + b) = v.getLsbD b := by
  have hlane : b / 8 < 4 := by omega
  have haddr : Ram.bit.base + (32 * w + b) / 8 = Ram.bit.base + 4 * w + b / 8 := by omega
  have hplace : (32 * w + b) % 8 = b % 8 := by omega
  rw [State.bitAt, haddr, hplace, State.byteAt_storeBytes_add _ (by simpa using hlane), wordBytes_getD v hlane]
  simp [Nat.mod_lt, Nat.div_add_mod]

/-- The two stored bytes of a sample are its low sixteen bits (20_memory.md R104). -/
theorem State.halfAt_storeBytes_sampleBytes (s : State) (m : Ram) (a : Nat) (v : Word) :
    (s.storeBytes a (sampleBytes v)).halfAt m a = v.extractLsb' 0 16 := by
  have hlow : (s.storeBytes a (sampleBytes v)).byteAt m a = v.extractLsb' 0 8 :=
    s.byteAt_storeBytes_add (k := 0) (by simp [sampleBytes]) m
  have hhigh : (s.storeBytes a (sampleBytes v)).byteAt m (a + 1) = v.extractLsb' 8 8 :=
    s.byteAt_storeBytes_add (k := 1) (by simp [sampleBytes]) m
  rw [State.halfAt, hlow, hhigh]
  exact BitVec.extractLsb'_append_extractLsb'_eq_extractLsb' rfl

/-- The operand of a stored sample is its signed number. -/
theorem State.sampleAt_storeBytes_sampleBytes (s : State) (i : Nat) (v : Word) :
    (s.storeBytes (Ram.sample.base + 4 * i) (sampleBytes v)).sampleAt i = (v.extractLsb' 0 16).toInt := by
  rw [State.sampleAt, State.halfAt_storeBytes_sampleBytes]

/-- A stored sample is read back sign-extended. -/
theorem State.readRam_storeBytes_sampleBytes (s : State) (a : Nat) (v : Word) :
    (s.storeBytes a (sampleBytes v)).readRam .sample a = (v.extractLsb' 0 16).signExtend 32 := by
  rw [State.readRam, State.halfAt_storeBytes_sampleBytes]

end Sys2Proof.Machine

open Sys2Proof Sys2Proof.Machine

/-- Settles O26: the error responses are the transactions that reach no location, by the tables of the spec. -/
theorem unsupportedAccessesGetAnErrorResponse : Obligations.UnsupportedAccessesGetAnErrorResponse := by
  intro s size addr v
  rw [exec_busRead32, exec_busWrite32]
  split
  · rename_i hbad
    have hnone : s.locate size addr = none := (s.locate_eq_none_iff size addr).2 hbad
    exact ⟨execBusRead32_of_locate_none hnone, execBusWrite32_of_locate_none hnone v⟩
  · rename_i hgood
    obtain ⟨l, hl⟩ := Option.ne_none_iff_exists'.1 (mt (s.locate_eq_none_iff size addr).1 hgood)
    exact ⟨execBusRead32_resp_of_locate_some hl, _, execBusWrite32_of_locate_some hl v, rfl⟩

/-- Settles O31: an input's write is `ignoreWrite` while a job runs; CTRL, STATUS and CMD do not ask for the engine. -/
theorem busyWritesToInputsOnlySetWerr : Obligations.BusyWritesToInputsOnlySetWerr := by
  intro s j v hbusy
  have hreg {addr : Addr} {r : Reg} (hr : r.isInput) (ha : addr.toNat = r.offset) :
      exec (.busWrite32 4 addr v) s = .next (s.ignoreWrite.respond false) := by
    rw [exec_busWrite32_reg s ha, State.writeReg_of_busy hbusy hr]
  have hram {m : Ram} {w : Nat} (hm : m.hostWritable = true) (hw : 4 * w < s.ramBytes m) :
      exec (.busWrite32 4 (BitVec.ofNat 26 (m.base + 4 * w)) v) s = .next (s.ignoreWrite.respond false) := by
    rw [exec_busWrite32_ramWord s m hw, State.writeLocation_ram_of_busy hbusy hm]
  refine ⟨?inputs, fun i hi => hram (m := .sample) rfl (by simpa using hi),
    fun w hw => hram (m := .bit) rfl (by simpa using hw), exec_busWrite32_reg s (r := .ctrl) rfl v,
    exec_busWrite32_reg s (r := .status) rfl v, exec_busWrite32_reg s (r := .cmd) rfl v⟩
  case inputs =>
    simp only [List.forall_mem_cons]
    exact ⟨hreg (r := .sr) (by simp [Reg.isInput]) rfl, hreg (r := .thresh) (by simp [Reg.isInput]) rfl,
      hreg (r := .nsamp) (by simp [Reg.isInput]) rfl, hreg (r := .bitcount) (by simp [Reg.isInput]) rfl, by simp⟩

/-- Settles O32: the write stores two bytes, which are the sample's pattern. -/
theorem sampleWritesStoreSixteenBits : Obligations.SampleWritesStoreSixteenBits := by
  intro s i v hidle hi
  have hword : 4 * i < s.ramBytes .sample := by simpa using hi
  have hwrite := exec_busWrite32_ramWord s .sample hword v
  rw [State.writeLocation_sample_of_idle hidle] at hwrite
  have hsample := s.sampleAt_storeBytes_sampleBytes i v
  have hread := exec_busRead32_ramWord
    (s := (s.storeBytes (Ram.sample.base + 4 * i) (sampleBytes v)).respond false) hidle .sample hword
  rw [State.readRam_respond, State.readRam_storeBytes_sampleBytes] at hread
  exact ⟨_, hwrite, hsample, (BitVec.le_toInt _).trans_eq hsample.symm,
    hsample.trans_le (Int.le_of_lt_add_one BitVec.toInt_lt), hread,
    fun m a ha => s.byteAt_storeBytes_outside ha m, rfl⟩

/-- Settles O33: the write stores the word's four lanes, and a word is its lanes. -/
theorem bitWritesStoreTheWord : Obligations.BitWritesStoreTheWord := by
  intro s w v hidle hw
  have hword : 4 * w < s.ramBytes .bit := by simpa using hw
  have hwrite := exec_busWrite32_ramWord s .bit hword v
  rw [State.writeLocation_bit_of_idle hidle] at hwrite
  have hread := exec_busRead32_ramWord
    (s := (s.storeBytes (Ram.bit.base + 4 * w) (wordBytes v)).respond false) hidle .bit hword
  rw [State.readRam_respond, State.readRam, State.wordAt_storeBytes_wordBytes] at hread
  exact ⟨_, hwrite, fun b hb => s.bitAt_storeBytes_wordBytes w v hb, hread,
    fun m a ha => s.byteAt_storeBytes_outside ha m, rfl⟩

/-- Settles O34: byte `j` is lane `j mod 4` of word `j div 4`, and frame RAM ignores the write. -/
theorem frameBytesStandInTheirLanes : Obligations.FrameBytesStandInTheirLanes := by
  intro s j hidle hj
  have hword : 4 * (j / 4) < s.ramBytes .frame := by rw [State.ramBytes_frame]; omega
  have hoffset : Ram.frame.base + 4 * (j / 4) + j % 4 = 0x0800000 + j := by
    rw [Nat.add_assoc, Nat.div_add_mod]; rfl
  have hlane := s.wordAt_lane .frame (Ram.frame.base + 4 * (j / 4)) (Nat.mod_lt j (by decide : 0 < 4))
  rw [hoffset] at hlane
  have hwrite := exec_busWrite32_ramWord s .frame hword
  simp only [State.writeLocation_frame] at hwrite
  exact ⟨⟨_, exec_busRead32_ramWord hidle .frame hword, hlane⟩, hwrite⟩

end

section
/-! PROOFS. The command map on the whole word, and what a word that is no command does when it reaches CMD: what O4 and
O18 rest on. -/

namespace Sys2Proof

/-! ## The reserved bits of a command word -/

/-- No bit of [31:4] is set exactly in the words below 16. -/
theorem Word.highBits_eq_zero_iff (v : Word) : v.extractLsb' 4 28 = 0#28 ↔ v.toNat < 16 := by
  rw [← BitVec.toNat_inj, BitVec.extractLsb'_toNat, Nat.shiftRight_eq_div_pow, BitVec.toNat_ofNat]
  omega

/-- The decoder's test of [31:4] is the test of that field. -/
theorem Word.ushiftRight_four_eq_zero_iff (v : Word) : v >>> 4 = 0#32 ↔ v.extractLsb' 4 28 = 0#28 := by
  rw [Word.highBits_eq_zero_iff, ← BitVec.toNat_inj, BitVec.toNat_ushiftRight, Nat.shiftRight_eq_div_pow,
    BitVec.toNat_ofNat]
  omega

/-- OPC is the word modulo 16. -/
theorem Word.opcode_toNat (v : Word) : (v.extractLsb' 0 4).toNat = v.toNat % 16 := by
  rw [BitVec.extractLsb'_toNat, Nat.shiftRight_zero]

/-- The illegal words of 30_encoding.md R153 and R154 are the words of 5 or more. -/
theorem Word.illegalCommand_iff (v : Word) :
    v.extractLsb' 4 28 ≠ 0#28 ∨ 5 ≤ (v.extractLsb' 0 4).toNat ↔ 5 ≤ v.toNat := by
  rw [Ne, Word.highBits_eq_zero_iff, Word.opcode_toNat]
  omega

/-- A word without reserved bits that is none of the five command words has a reserved OPC. -/
theorem Word.five_le_opcode {v : Word} (hhigh : v.extractLsb' 4 28 = 0#28) (h0 : v ≠ 0#32) (h1 : v ≠ 1#32)
    (h2 : v ≠ 2#32) (h3 : v ≠ 3#32) (h4 : v ≠ 4#32) : 5 ≤ (v.extractLsb' 0 4).toNat := by
  rw [Word.highBits_eq_zero_iff] at hhigh
  rw [Word.opcode_toNat]
  bv_omega

/-! ## The decoder of command words -/

/-- The word of a command carries that command. -/
@[simp] theorem decodeCommand_word (c : Command) : decodeCommand c.word = .ok c := by
  cases c <;> rfl

/-- 30_encoding.md R154. -/
theorem decodeCommand_of_highBits_ne_zero {v : Word} (h : v.extractLsb' 4 28 ≠ 0#28) :
    decodeCommand v = .error .reservedBits :=
  if_pos (mt v.ushiftRight_four_eq_zero_iff.1 h)

/-- 30_encoding.md R153. -/
theorem decodeCommand_of_five_le_opcode {v : Word} (hhigh : v.extractLsb' 4 28 = 0#28)
    (hopc : 5 ≤ (v.extractLsb' 0 4).toNat) : decodeCommand v = .error .reservedOpcode := by
  obtain ⟨n, hn⟩ := Nat.exists_eq_add_of_le' hopc
  rw [decodeCommand, if_neg (not_not.2 (v.ushiftRight_four_eq_zero_iff.2 hhigh)), hn]
  rfl

end Sys2Proof

namespace Sys2Proof.Machine

/-! ## A word that is no command -/

/-- Only the first error since ERR was last cleared is recorded (60_exceptions.md R402). -/
theorem State.raiseError_eq_ite (s : State) (e : ErrorCode) : s.raiseError e =
    if s.status.err then s else { s with status := { s.status with err := true, errcode := e.code } } := by
  unfold State.raiseError Status.record
  split <;> rfl

theorem State.onCmd_of_five_le (s : State) {v : Word} (h : 5 ≤ v.toNat) : s.onCmd v = s.raiseError .illegalCmd := by
  obtain ⟨r, hr⟩ := decodeCommand_of_five_le h
  rw [State.onCmd, hr]

/-- A write to CMD does what its word does there (43_commands.md R350). -/
theorem exec_busWrite32_cmd (s : State) (v : Word) :
    exec (.busWrite32 4 0x014#26 v) s = .next ((s.onCmd v).respond false) :=
  exec_busWrite32_reg s (r := .cmd) rfl v

end Sys2Proof.Machine

open Sys2Proof Sys2Proof.Machine

/-- Settles O4: the five command words are `Command.word`, and every other word has a reserved bit or a reserved OPC. -/
theorem commandWordsDecodeAsTheOpcodeMap : Obligations.CommandWordsDecodeAsTheOpcodeMap := by
  intro v
  split_ifs with h0 h1 h2 h3 h4 hhigh
  · exact h0 ▸ decodeCommand_word .nop
  · exact h1 ▸ decodeCommand_word .run
  · exact h2 ▸ decodeCommand_word .demod
  · exact h3 ▸ decodeCommand_word .frame
  · exact h4 ▸ decodeCommand_word .abort
  · exact decodeCommand_of_five_le_opcode hhigh (Word.five_le_opcode hhigh h0 h1 h2 h3 h4)
  · exact decodeCommand_of_highBits_ne_zero hhigh

/-- Settles O18: the illegal words are those of 5 or more, which are no command, and CMD answers with ILLEGAL_CMD. -/
theorem illegalCommandWordsRaiseIllegalCmd : Obligations.IllegalCommandWordsRaiseIllegalCmd := by
  intro s v hillegal
  have hfive : 5 ≤ v.toNat := v.illegalCommand_iff.1 hillegal
  rw [exec_busWrite32_cmd, s.onCmd_of_five_le hfive, State.raiseError_eq_ite]
  split <;> rfl

end

section
/-! PROOFS. The products and window sums of the demodulator: what O42 and O43 rest on. -/

namespace Sys2Proof.Machine

/-! ## Rolling and correlating -/

/-- The roll to the right by `unit` is a rotation to the left by what `unit` lacks of a multiple of the length. -/
theorem roll_eq_rotate {α : Type} (unit : Nat) (s : List α) : roll unit s = s.rotate (s.length - unit % s.length) :=
  (List.rotate_eq_drop_append_take (Nat.sub_le _ _)).symm

/-- The index the roll takes element `i` from is the non-negative remainder of 40_demodulator.md R203. -/
theorem rolled_index (i unit : Nat) {n : Nat} (hn : 0 < n) :
    (i + (n - unit % n)) % n = (((i : Int) - (unit : Int)) % (n : Int)).toNat := by
  have hlt : unit % n < n := Nat.mod_lt _ hn
  have hdiv : (n : Int) * (unit / n : Nat) + (unit % n : Nat) = unit := by exact_mod_cast Nat.div_add_mod unit n
  have hshift : ((i + (n - unit % n) : Nat) : Int) = i - unit + n * ((unit / n : Nat) + 1) := by
    rw [mul_add]
    omega
  rw [← Int.add_mul_emod_self_left ((i : Int) - unit) n ((unit / n : Nat) + 1), ← hshift, ← Int.natCast_mod,
    Int.toNat_natCast]

theorem roll_getD {α : Type} (unit : Nat) {s : List α} (d : α) {i : Nat} (h : i < s.length) :
    (roll unit s).getD i d = s.getD (((i : Int) - (unit : Int)) % (s.length : Int)).toNat d := by
  rw [← rolled_index i unit (Nat.zero_lt_of_lt h), roll_eq_rotate, List.getD_eq_getElem?_getD, List.getElem?_rotate h,
    List.getD_eq_getElem?_getD]

@[simp] theorem correlate_length (unit : Nat) (s : List Int) : (correlate unit s).length = s.length := by
  simp [correlate]

theorem correlate_getD (unit : Nat) {s : List Int} {i : Nat} (h : i < s.length) :
    (correlate unit s).getD i 0
      = 2 * s.getD i 0 * s.getD (((i : Int) - (unit : Int)) % (s.length : Int)).toNat 0 := by
  rw [← roll_getD unit 0 h]
  simp [correlate, h]

/-- Every product has its two factors among the samples. -/
theorem exists_of_mem_correlate {unit : Nat} {s : List Int} {c : Int} (h : c ∈ correlate unit s) :
    ∃ x ∈ s, ∃ y ∈ s, c = 2 * x * y := by
  obtain ⟨i, hi, rfl⟩ := List.getElem_of_mem h
  have hmem : ∀ y ∈ roll unit s, y ∈ s := fun y hy => List.mem_rotate.1 (roll_eq_rotate unit s ▸ hy)
  exact ⟨_, List.getElem_mem _, _, hmem _ (List.getElem_mem _), List.getElem_zipWith⟩

/-! ## Bounds -/

theorem abs_two_mul_mul_le {x y : Int} (hx : |x| ≤ 2 ^ 15) (hy : |y| ≤ 2 ^ 15) : |2 * x * y| ≤ 2 ^ 31 := by
  have hxy : |x| * |y| ≤ 2 ^ 15 * 2 ^ 15 := mul_le_mul hx hy (abs_nonneg y) (by norm_num)
  rw [mul_assoc, abs_mul, abs_mul, abs_two]
  linarith

theorem abs_sum_le_length_mul {w : List Int} {b : Int} (h : ∀ c ∈ w, |c| ≤ b) : |w.sum| ≤ w.length * b := by
  induction w with
  | nil => simp
  | cons c w ih =>
    obtain ⟨hc, hw⟩ := List.forall_mem_cons.1 h
    have hsum : |c + w.sum| ≤ |c| + |w.sum| := abs_add_le c w.sum
    have hrest := ih hw
    rw [List.sum_cons, List.length_cons]
    push_cast
    linarith

/-- A window has at most `size` elements, all of them of the sequence. -/
theorem window_of_mem_chunksUpTo {α : Type} {size n : Nat} {xs w : List α} (h : w ∈ chunksUpTo size n xs) :
    w.length ≤ size ∧ w ⊆ xs := by
  induction n generalizing xs with
  | zero => simp [chunksUpTo] at h
  | succ n ih =>
    cases xs with
    | nil => simp [chunksUpTo] at h
    | cons x xs =>
      rcases List.mem_cons.1 h with rfl | hrest
      · exact ⟨List.length_take_le _ _, List.take_subset _ _⟩
      · obtain ⟨hlen, hsub⟩ := ih hrest
        exact ⟨hlen, List.Subset.trans hsub (List.drop_subset _ _)⟩

/-- A stored sample is a signed number of sixteen bits (20_memory.md R104). -/
theorem State.mem_samples {s : State} {x : Int} (h : x ∈ s.samples) : -32768 ≤ x ∧ x ≤ 32767 := by
  obtain ⟨i, -, rfl⟩ := List.mem_map.1 h
  exact ⟨BitVec.le_toInt _, Int.le_of_lt_add_one BitVec.toInt_lt⟩

theorem State.abs_le_of_mem_correlate {s : State} {unit : Nat} {c : Int} (h : c ∈ correlate unit s.samples) :
    |c| ≤ 2 ^ 31 := by
  obtain ⟨x, hx, y, hy, rfl⟩ := exists_of_mem_correlate h
  have habs : ∀ z ∈ s.samples, |z| ≤ 2 ^ 15 := fun z hz => by
    obtain ⟨hlow, hhigh⟩ := State.mem_samples hz
    exact abs_le.2 ⟨by linarith, by linarith⟩
  exact abs_two_mul_mul_le (habs x hx) (habs y hy)

/-- SR has 18 bits (10_state.md R40). -/
theorem State.unit_le (s : State) : s.sampleRate / 1000 ≤ 262 := by
  have hlt : s.sampleRate < 2 ^ 18 := s.sr.isLt
  omega

theorem State.abs_windowSum_le {s : State} {w : List Int}
    (h : w ∈ chunks (s.sampleRate / 1000) (correlate (s.sampleRate / 1000) s.samples)) : |w.sum| ≤ 262 * 2 ^ 31 := by
  obtain ⟨hlen, hsub⟩ := window_of_mem_chunksUpTo h
  have hcount : (w.length : Int) ≤ 262 := by exact_mod_cast hlen.trans s.unit_le
  calc |w.sum| ≤ w.length * 2 ^ 31 := abs_sum_le_length_mul fun c hc => State.abs_le_of_mem_correlate (hsub hc)
    _ ≤ 262 * 2 ^ 31 := mul_le_mul_of_nonneg_right hcount (by norm_num)

end Sys2Proof.Machine

open Sys2Proof Sys2Proof.Machine

/-- Settles O42: the roll is a rotation, whose element `i` is the sample at the wrapped index. -/
theorem correlationIsTheCircularProduct : Obligations.CorrelationIsTheCircularProduct :=
  fun unit s => ⟨correlate_length unit s, fun _ hi => correlate_getD unit hi⟩

/-- Settles O43: samples have 16 bits, a product two samples, and a window at most 262 products. -/
theorem windowSumsFitTheAccumulator : Obligations.WindowSumsFitTheAccumulator := fun s =>
  ⟨fun _ hx => State.mem_samples hx, fun _ hc => State.abs_le_of_mem_correlate hc, fun _ hw =>
    ⟨State.abs_windowSum_le hw, (State.abs_windowSum_le hw).trans_lt (by norm_num)⟩⟩

end

section
/-! PROOFS. The runs of a level sequence, spelled and emitted: what O45 rests on. -/

namespace Sys2Proof.Machine

/-! ## Runs that spell a level sequence -/

/-- The levels a list of runs spells. -/
def spell (rs : List (Byte × Nat)) : List Byte := rs.flatMap fun r => List.replicate r.2 r.1

theorem spell_cons (r : Byte × Nat) (rs : List (Byte × Nat)) : spell (r :: rs) = List.replicate r.2 r.1 ++ spell rs :=
  List.flatMap_cons

/-- The runs of a list are maximal: none is empty and no two neighbours have the same level (40_demodulator.md R209). -/
def MaximalRuns (rs : List (Byte × Nat)) : Prop := (∀ r ∈ rs, 0 < r.2) ∧ rs.IsChain fun a b => a.1 ≠ b.1

theorem maximalRuns_iff (rs : List (Byte × Nat)) : MaximalRuns rs ↔ (∀ r ∈ rs, 0 < r.2) ∧
    ∀ n, n + 1 < rs.length → (rs.getD n (0#8, 0)).1 ≠ (rs.getD (n + 1) (0#8, 0)).1 := by
  refine and_congr_right fun _ => List.isChain_iff_getElem.trans (forall₂_congr fun n hn => ?_)
  rw [List.getD_eq_getElem _ _ hn, List.getD_eq_getElem _ _ (Nat.lt_of_succ_lt hn)]

/-- The run in progress takes in the levels equal to its own. -/
theorem runsFrom_replicate_append (cur : Byte) (len n : Nat) (ls : List Byte) :
    runsFrom cur len (List.replicate n cur ++ ls) = runsFrom cur (len + n) ls := by
  induction n generalizing len with
  | zero => rfl
  | succ n ih => rw [List.replicate_succ, List.cons_append, runsFrom, if_pos rfl, ih, Nat.add_right_comm, Nat.add_assoc]

/-- A level other than that of the run in progress closes it and starts its own. -/
theorem runsFrom_replicate_append_of_ne {cur l : Byte} {n : Nat} (hne : cur ≠ l) (hn : 0 < n) (len : Nat)
    (ls : List Byte) : runsFrom cur len (List.replicate n l ++ ls) = (cur, len) :: runsFrom l n ls := by
  cases n with
  | zero => exact absurd hn (Nat.lt_irrefl 0)
  | succ n =>
    rw [List.replicate_succ, List.cons_append, runsFrom, if_neg hne.symm, runsFrom_replicate_append, Nat.add_comm]

theorem emittedRuns_replicate_append (l : Byte) {n : Nat} (hn : 0 < n) (ls : List Byte) :
    emittedRuns (List.replicate n l ++ ls) = runsFrom l n ls := by
  cases n with
  | zero => exact absurd hn (Nat.lt_irrefl 0)
  | succ n => rw [List.replicate_succ, List.cons_append, emittedRuns, runsFrom_replicate_append, Nat.add_comm]

/-- Each maximal run behind the run in progress closes the one before it, and the last stays open. -/
theorem runsFrom_spell {cur : Byte} {len : Nat} {rs : List (Byte × Nat)} (h : MaximalRuns ((cur, len) :: rs)) :
    runsFrom cur len (spell rs) = ((cur, len) :: rs).dropLast := by
  induction rs generalizing cur len with
  | nil => rfl
  | cons r rs ih =>
    obtain ⟨hpos, hchain⟩ := h
    obtain ⟨hne, hrest⟩ := List.isChain_cons_cons.1 hchain
    obtain ⟨-, hposTail⟩ := List.forall_mem_cons.1 hpos
    rw [spell_cons, runsFrom_replicate_append_of_ne hne (hposTail r List.mem_cons_self), ih ⟨hposTail, hrest⟩]
    rfl

theorem emittedRuns_spell {rs : List (Byte × Nat)} (h : MaximalRuns rs) : emittedRuns (spell rs) = rs.dropLast := by
  cases rs with
  | nil => rfl
  | cons r rs => rw [spell_cons, emittedRuns_replicate_append _ (h.1 r List.mem_cons_self), runsFrom_spell h]

/-- A level in front of a run of the same level makes it longer; in front of another it is a run of its own. -/
theorem exists_maximalRuns_cons (l : Byte) {rs : List (Byte × Nat)} (h : MaximalRuns rs) :
    ∃ rs', MaximalRuns rs' ∧ l :: spell rs = spell rs' := by
  obtain ⟨hpos, hchain⟩ := h
  cases rs with
  | nil => exact ⟨[(l, 1)], ⟨by simp, List.isChain_singleton _⟩, rfl⟩
  | cons r rs =>
    obtain ⟨m, n⟩ := r
    obtain ⟨-, hposTail⟩ := List.forall_mem_cons.1 hpos
    by_cases hlm : l = m
    · subst hlm
      have hlonger : ((l, n + 1) :: rs).IsChain fun a b => a.1 ≠ b.1 :=
        hchain.imp_head (x := (l, n)) (y := (l, n + 1)) id
      exact ⟨(l, n + 1) :: rs, ⟨List.forall_mem_cons.2 ⟨Nat.succ_pos n, hposTail⟩, hlonger⟩, rfl⟩
    · exact ⟨(l, 1) :: (m, n) :: rs, ⟨List.forall_mem_cons.2 ⟨Nat.one_pos, hpos⟩,
        List.isChain_cons_cons.2 ⟨hlm, hchain⟩⟩, rfl⟩

theorem exists_maximalRuns (ls : List Byte) : ∃ rs, MaximalRuns rs ∧ ls = spell rs := by
  induction ls with
  | nil => exact ⟨[], ⟨by simp, List.isChain_nil⟩, rfl⟩
  | cons l ls ih =>
    obtain ⟨rs, hrs, rfl⟩ := ih
    exact exists_maximalRuns_cons l hrs

end Sys2Proof.Machine

open Sys2Proof Sys2Proof.Machine

/-- Settles O45: a list of maximal runs is emitted without its last run, and the bits follow run by run. -/
theorem emittedRunsAreAllRunsButTheLast : Obligations.EmittedRunsAreAllRunsButTheLast := by
  refine ⟨fun rs hpos hne => emittedRuns_spell ((maximalRuns_iff rs).2 ⟨hpos, hne⟩), fun ls => ?_,
    fun sr t s rs hpos hne hlevels => demodulate_of_emittedRuns ?_⟩
  · obtain ⟨rs, hrs, hspell⟩ := exists_maximalRuns ls
    obtain ⟨hpos, hne⟩ := (maximalRuns_iff rs).1 hrs
    exact ⟨rs, hpos, hne, hspell⟩
  · have hspell : sampleLevels sr t s = spell rs := hlevels
    rw [hspell, emittedRuns_spell ((maximalRuns_iff rs).2 ⟨hpos, hne⟩)]

end

section
/-! PROOFS. The length of a demodulated sequence, bits packed into bytes, and bit RAM after a demodulator stage: what O8
rests on. -/

namespace Sys2Proof.Machine

/-! ## How many bits a stream gives -/

/-- A quotient of at most `m` is rounded to at most `m`: it is rounded up only from below `m`. -/
theorem rhe_le_of_le_mul {n d m : Nat} (hd : 0 < d) (h : n ≤ m * d) : rhe n d ≤ m := by
  have hle : n / d ≤ m := Nat.div_le_of_le_mul (by rwa [Nat.mul_comm])
  have hup : rhe n d ≤ n / d + 1 := by unfold rhe; split_ifs <;> omega
  rcases hle.lt_or_eq with hlt | heq
  · omega
  · have hmod : n % d = 0 := by
      have hsum := Nat.div_add_mod n d
      rw [heq, Nat.mul_comm] at hsum
      omega
    have hexact : rhe n d = n / d := by simp [rhe, hmod, hd]
    omega

/-- A run gives at most as many bits as it has samples, since SR is above the data rate (40_demodulator.md R215). -/
theorem runBits_length_le {sr : Nat} (h : 1000 ≤ sr) (r : Byte × Nat) : (runBits sr r).length ≤ r.2 := by
  rw [runBits_eq, List.length_replicate]
  exact rhe_le_of_le_mul (by omega) (Nat.mul_le_mul_left _ (by omega))

/-- Each sample lies in one window, so it gets one level. -/
theorem levels_length (t : Nat) {unit : Nat} (h : 0 < unit) (c : List Int) : (levels t unit c).length = c.length := by
  conv_rhs => rw [← chunks_flatten c h]
  simp [levels, List.length_flatMap, List.length_flatten]

theorem sampleLevels_length {sr : Nat} (h : 1000 ≤ sr) (t : Nat) (s : List Int) :
    (sampleLevels sr t s).length = s.length := by
  have hunit : 0 < sr / Config.unitDiv := Nat.div_pos h (by decide)
  rw [sampleLevels, levels_length t hunit, correlate_length]

theorem spell_length (rs : List (Byte × Nat)) : (spell rs).length = (rs.map Prod.snd).sum := by
  simp [spell, List.length_flatMap]

/-- The emitted runs are spelled by an initial part of the levels. -/
theorem sum_emittedRuns_le (ls : List Byte) : ((emittedRuns ls).map Prod.snd).sum ≤ ls.length := by
  obtain ⟨rs, hrs, rfl⟩ := exists_maximalRuns ls
  rw [emittedRuns_spell hrs, spell_length]
  exact ((List.dropLast_sublist rs).map Prod.snd).sum_le_sum fun _ _ => Nat.zero_le _

theorem demodulate_length_le {sr : Nat} (h : 1000 ≤ sr) (t : Nat) (s : List Int) :
    (demodulate sr t s).length ≤ s.length := by
  calc (demodulate sr t s).length
      = ((emittedRuns (sampleLevels sr t s)).map fun r => (runBits sr r).length).sum := List.length_flatMap
    _ ≤ ((emittedRuns (sampleLevels sr t s)).map Prod.snd).sum :=
        List.sum_le_sum fun r _ => runBits_length_le h r
    _ ≤ (sampleLevels sr t s).length := sum_emittedRuns_le _
    _ = s.length := sampleLevels_length h t s

@[simp] theorem State.samples_length (s : State) : s.samples.length = s.sampleCount := by
  simp [State.samples]

/-! ## Bits in bytes -/

/-- Window `j` of a sequence; behind the last one there is nothing. -/
theorem chunksUpTo_getD {α : Type} {size n : Nat} (xs : List α) (hs : 0 < size) (hn : xs.length ≤ n) (j : Nat) :
    (chunksUpTo size n xs).getD j [] = (xs.drop (size * j)).take size := by
  induction n generalizing xs j with
  | zero => simp [chunksUpTo, List.length_eq_zero_iff.1 (Nat.le_zero.1 hn)]
  | succ n ih =>
    cases xs with
    | nil => simp [chunksUpTo]
    | cons x xs =>
      cases j with
      | zero => simp [chunksUpTo]
      | succ j =>
        have hrest : ((x :: xs).drop size).length ≤ n := by
          simp only [List.length_drop, List.length_cons] at hn ⊢
          omega
        rw [chunksUpTo, List.getD_cons_succ, ih _ hrest, List.drop_drop, Nat.mul_succ, Nat.add_comm]

theorem bitsValue_testBit (b : Bits) (i : Nat) : (bitsValue b).testBit i = b.getD i false := by
  induction b generalizing i with
  | nil => simp [bitsValue]
  | cons x xs ih =>
    have hbit : bitsValue (x :: xs) = Nat.bit x (bitsValue xs) := by
      cases x <;> simp [bitsValue, Nat.bit, Nat.add_comm]
    cases i with
    | zero => rw [hbit, Nat.testBit_bit_zero, List.getD_cons_zero]
    | succ i => rw [hbit, Nat.testBit_bit_succ, ih, List.getD_cons_succ]

/-- A byte holds eight bits, the last one what is left (42_destuff_crc.md R304). -/
theorem packBytes_length (d : Bits) : (packBytes d).length = (d.length + 7) / 8 := by
  rw [packBytes, List.length_map, chunks, chunksUpTo_length d (by decide) (Nat.le_refl _)]
  rfl

/-- Bit `t` of byte `j` is bit `8 * j + t` of the sequence, and 0 behind its end (42_destuff_crc.md R304, R305). -/
theorem packBytes_getLsbD (d : Bits) (j : Nat) {t : Nat} (ht : t < 8) :
    ((packBytes d).getD j 0#8).getLsbD t = d.getD (8 * j + t) false := by
  have hbyte : (packBytes d).getD j 0#8 = BitVec.ofNat 8 (bitsValue ((d.drop (8 * j)).take 8)) := by
    rw [← chunksUpTo_getD d (by decide) (Nat.le_refl _)]
    exact List.getD_map _ [] fun c => BitVec.ofNat 8 (bitsValue c)
  rw [hbyte, BitVec.getLsbD_ofNat, bitsValue_testBit]
  simp [ht, List.getD_eq_getElem?_getD]

/-- Padding with the default leaves every element as it was. -/
theorem padTo_getD {α : Type} (size : Nat) (z : α) (xs : List α) (k : Nat) :
    (padTo size z xs).getD k z = xs.getD k z := by
  rcases Nat.lt_or_ge k xs.length with h | h
  · rw [padTo, List.getD_append _ _ _ _ h]
  · rw [padTo, List.getD_append_right _ _ _ _ h, List.getD_eq_default _ _ h]
    exact List.getElem?_getD_replicate_default_eq _ _ _

/-! ## Bit RAM after a demodulator stage -/

/-- The bytes a demodulator stage stores: whole words, the last one filled up with zeros (40_demodulator.md R212). -/
def bitRamBytes (bits : Bits) : List Byte := packBytes (padTo 32 false bits)

theorem bitRamBytes_length (bits : Bits) : (bitRamBytes bits).length = 4 * ((bits.length + 31) / 32) := by
  rw [bitRamBytes, packBytes_length, padTo_length 32 false bits (by decide)]
  omega

/-- Bit RAM after the stage, in the words written: the bits, and zeros behind the last one. -/
theorem State.demodStage_bitAt (s : State) {k : Nat} (h : k < 32 * ((s.demodBits.length + 31) / 32)) :
    s.demodStage.bitAt k = s.demodBits.getD k false := by
  have hbyte : k / 8 < (bitRamBytes s.demodBits).length := by rw [bitRamBytes_length]; omega
  have hstored : s.demodStage.byteAt .bit (Ram.bit.base + k / 8) = (bitRamBytes s.demodBits).getD (k / 8) 0#8 :=
    s.byteAt_storeBytes_add hbyte .bit
  rw [State.bitAt, hstored, bitRamBytes, packBytes_getLsbD _ _ (Nat.mod_lt _ (by decide)), padTo_getD, Nat.div_add_mod]

/-- Outside the words written every byte is as before (40_demodulator.md R212). -/
theorem State.demodStage_byteAt_outside (s : State) {a : Nat}
    (h : a < Ram.bit.base ∨ Ram.bit.base + 4 * ((s.demodBits.length + 31) / 32) ≤ a) (m : Ram) :
    s.demodStage.byteAt m a = s.byteAt m a :=
  s.byteAt_storeBytes_outside (by rwa [← bitRamBytes_length] at h) m

/-- BITCOUNT is wide enough for the bits of a legal job (40_demodulator.md R211, R215). -/
theorem State.demodStage_bitLength {s : State} (hsr : 1000 ≤ s.sampleRate) (hn : s.sampleCount ≤ s.sampleCap) :
    s.demodStage.bitLength = s.demodBits.length := by
  have hle : s.demodBits.length ≤ s.sampleCount := s.samples_length ▸ demodulate_length_le hsr _ _
  have hcap := s.sampleCap_le
  rw [State.bitLength, State.demodStage_bitcount, BitVec.toNat_ofNat, Nat.mod_eq_of_lt (by omega)]

/-! ## The end of a job leaves the outputs alone -/

@[simp] theorem State.finishJob_byteAt (s : State) (m : Ram) (a : Nat) : s.finishJob.byteAt m a = s.byteAt m a := rfl
@[simp] theorem State.finishJob_bitAt (s : State) (k : Nat) : s.finishJob.bitAt k = s.bitAt k := rfl
@[simp] theorem State.finishJob_bitLength (s : State) : s.finishJob.bitLength = s.bitLength := rfl
@[simp] theorem State.takeEvent_byteAt (s : State) (m : Ram) (a : Nat) : s.takeEvent.byteAt m a = s.byteAt m a := rfl
@[simp] theorem State.takeEvent_demodBits (s : State) : s.takeEvent.demodBits = s.demodBits := rfl

/-- At the engine's turn a running job completes (43_commands.md R358). -/
theorem step_of_runningJob {s : State} {j : Job} (hturn : s.nextEvent = .engine) (hjob : s.engine = .busy j) :
    step s = .next (s.takeEvent.runStages j).finishJob := by
  rw [step_of_engine hturn, State.engineTurn, State.takeEvent_engine, hjob]
  rfl

end Sys2Proof.Machine

open Sys2Proof Sys2Proof.Machine

/-- Settles O8: the step stores the padded bits in whole words of bit RAM, and BITCOUNT does not overflow. -/
theorem completedDemodWritesTheDemodulatedBits : Obligations.CompletedDemodWritesTheDemodulatedBits := by
  intro s hturn hjob hsr hn
  have hlen : s.takeEvent.demodStage.finishJob.bitLength = s.demodBits.length := by
    rw [State.finishJob_bitLength, State.demodStage_bitLength (s := s.takeEvent) hsr hn, State.takeEvent_demodBits]
  refine ⟨s.takeEvent.demodStage.finishJob, step_of_runningJob hturn hjob, hlen, ?bits, ?fill, ?frame, rfl⟩
  case bits =>
    intro k hk
    rw [hlen, ← State.takeEvent_demodBits] at hk
    rw [State.finishJob_bitAt, State.demodStage_bitAt _ (by omega)]
    rfl
  case fill =>
    intro k hge hlt
    rw [hlen, ← State.takeEvent_demodBits] at hge hlt
    rw [State.finishJob_bitAt, State.demodStage_bitAt _ hlt, List.getD_eq_default _ _ hge]
  case frame =>
    intro m a ha
    rw [hlen, ← State.takeEvent_demodBits] at ha
    rw [State.finishJob_byteAt, State.demodStage_byteAt_outside _ ha, State.takeEvent_byteAt]

end

section
/-! PROOFS. How the flags cut a bit sequence, and which candidates are rejected before the field steps: what O50 and O51
rest on. -/

namespace Sys2Proof.Machine

/-! ## Patterns found and not found -/

theorem flagPattern_ne_nil : flagPattern ≠ [] := by decide
theorem inactivePattern_ne_nil : inactivePattern ≠ [] := by decide
theorem stuffPattern_ne_nil : stuffPattern ≠ [] := by decide

/-- The search finds a pattern exactly when it stands somewhere. -/
theorem findPattern_isSome_iff {pat : Bits} (hpat : pat ≠ []) (x : Bits) :
    (findPattern pat x).isSome = true ↔ ∃ j, standsAt pat x j := by
  cases h : findPattern pat x with
  | none => simpa using findPattern_none hpat h
  | some j => simpa using ⟨j, (findPattern_some h).1⟩

/-- Whether a pattern stands at an index is decided by the bits up to its end there. -/
theorem standsAt_take_iff {pat x : Bits} {j n : Nat} (h : j + pat.length ≤ n) :
    standsAt pat (x.take n) j ↔ standsAt pat x j := by
  rw [standsAt, standsAt, List.drop_take, List.take_take, min_eq_left (by omega)]

/-- The flag that is found cuts the sequence into the bits before it, itself, and the bits behind it. -/
theorem append_flag_append_drop {b : Bits} {f : Nat} (h : standsAt flagPattern b f) :
    b.take f ++ flagPattern ++ b.drop (f + 8) = b := by
  have hflag : (b.drop f).take 8 = flagPattern := h
  rw [← hflag, ← List.take_add, List.take_append_drop]

/-! ## The cut -/

/-- What it is that candidates and a number of tail bits cut a sequence, whose first bit has index `pos`
(41_frame_extractor.md R251, R252): the sequence is a tail without a flag, or a candidate and its flag, none standing
earlier, in front of a sequence cut in the same way. -/
inductive FlagCut : Nat → Bits → List Candidate → Nat → Prop where
  | tail {pos : Nat} {b : Bits} (hnone : ∀ j, ¬ standsAt flagPattern b j) : FlagCut pos b [] b.length
  | flag {pos tail : Nat} {c b : Bits} {cs : List Candidate}
      (hfirst : ∀ j < c.length, ¬ standsAt flagPattern (c ++ flagPattern) j)
      (hrest : FlagCut (pos + c.length + 8) b cs tail) : FlagCut pos (c ++ flagPattern ++ b) ((pos, c) :: cs) tail

theorem splitUpTo_flagCut {n : Nat} (pos : Nat) {b : Bits} (hn : b.length ≤ n) :
    FlagCut pos b (splitUpTo n pos b).1 (splitUpTo n pos b).2 := by
  induction n generalizing pos b with
  | zero =>
    obtain rfl := List.length_eq_zero_iff.1 (Nat.le_zero.1 hn)
    exact .tail (findPattern_none flagPattern_ne_nil rfl)
  | succ n ih =>
    rw [splitUpTo]
    split
    next hnone => exact .tail (findPattern_none flagPattern_ne_nil hnone)
    next f hfound =>
      obtain ⟨hflag, hleast⟩ := findPattern_some hfound
      have hend : f + 8 ≤ b.length := findPattern_le flagPattern_ne_nil hfound
      have hlen : (b.take f).length = f := List.length_take_of_le (by omega)
      have hcut : b.take (f + 8) = b.take f ++ flagPattern := by
        rw [List.take_add, show (b.drop f).take 8 = flagPattern from hflag]
      have hfirst : ∀ j < (b.take f).length, ¬ standsAt flagPattern (b.take f ++ flagPattern) j := by
        intro j hj
        rw [hlen] at hj
        rw [← hcut, standsAt_take_iff (Nat.add_le_add_right hj.le 8)]
        exact hleast j hj
      have hrest := ih (pos + (b.take f).length + 8) (b := b.drop (f + 8)) (by rw [List.length_drop]; omega)
      have hsplit := FlagCut.flag hfirst hrest
      rwa [append_flag_append_drop hflag, hlen] at hsplit

theorem splitFlags_flagCut (b : Bits) : FlagCut 0 b (splitFlags b).1 (splitFlags b).2 :=
  splitUpTo_flagCut 0 (Nat.le_refl _)

/-- Candidates, each followed by its flag. -/
def delimited (cs : List Candidate) : Bits := cs.flatMap fun c => c.2 ++ flagPattern

theorem delimited_cons (c : Candidate) (cs : List Candidate) :
    delimited (c :: cs) = c.2 ++ flagPattern ++ delimited cs :=
  List.flatMap_cons

section
variable {pos tail : Nat} {b : Bits} {cs : List Candidate}

/-- A cut sequence is its candidates, each followed by its flag, and a tail without a flag. -/
theorem FlagCut.exists_eq_append (h : FlagCut pos b cs tail) :
    ∃ u : Bits, u.length = tail ∧ (∀ j, ¬ standsAt flagPattern u j) ∧
      b = delimited cs ++ u := by
  induction h with
  | tail hnone => exact ⟨_, rfl, hnone, rfl⟩
  | flag _ _ ih =>
    obtain ⟨u, hlen, hnone, rfl⟩ := ih
    exact ⟨u, hlen, hnone, by rw [delimited_cons, List.append_assoc _ _ u]⟩

/-- The flag behind a candidate is the first one from the candidate's start. -/
theorem FlagCut.not_standsAt (h : FlagCut pos b cs tail) :
    ∀ c ∈ cs, ∀ j < c.2.length, ¬ standsAt flagPattern (c.2 ++ flagPattern) j := by
  induction h with
  | tail => simp
  | flag hfirst _ ih => exact List.forall_mem_cons.2 ⟨hfirst, ih⟩

/-- Each candidate starts where the flag of the one before it ended (41_frame_extractor.md R252). -/
theorem FlagCut.start_eq (h : FlagCut pos b cs tail) : ∀ n < cs.length,
    (cs.getD n (0, [])).1 = pos + ((cs.take n).map fun c => c.2.length + 8).sum := by
  induction h with
  | tail => simp
  | flag _ _ ih =>
    intro n hn
    cases n with
    | zero => rfl
    | succ n =>
      rw [List.getD_cons_succ, ih n (Nat.lt_of_succ_lt_succ hn)]
      simp only [List.take_succ_cons, List.map_cons, List.sum_cons, Nat.add_assoc]

/-- Candidates, flags and tail are all the bits. -/
theorem FlagCut.length_eq (h : FlagCut pos b cs tail) : (cs.map fun c => c.2.length + 8).sum + tail = b.length := by
  induction h with
  | tail => simp
  | flag _ _ ih =>
    simp only [List.map_cons, List.sum_cons, List.length_append, flagPattern_length]
    omega

end

/-! ## The checks on a candidate -/

/-- 41_frame_extractor.md R254. -/
theorem processCandidate_of_short {c : Candidate} (h : c.2.length < 8) (off : Nat) :
    processCandidate c off = (rejected .rejShort c.2 c.1 off, []) :=
  if_pos h

theorem processCandidate_of_long {c : Candidate} (h : 8 ≤ c.2.length) (off : Nat) : processCandidate c off =
    if (findPattern inactivePattern c.2).isSome then (rejected .rejInactive c.2 c.1 off, [])
    else fieldSteps c.2 c.1 off :=
  if_neg (Nat.not_lt.2 h)

/-- 41_frame_extractor.md R255. -/
theorem processCandidate_of_inactive {c : Candidate} (hlen : 8 ≤ c.2.length)
    (h : ∃ j, standsAt inactivePattern c.2 j) (off : Nat) :
    processCandidate c off = (rejected .rejInactive c.2 c.1 off, []) := by
  rw [processCandidate_of_long hlen, if_pos ((findPattern_isSome_iff inactivePattern_ne_nil c.2).2 h)]

/-- 41_frame_extractor.md R256. -/
theorem processCandidate_of_active {c : Candidate} (hlen : 8 ≤ c.2.length)
    (h : ∀ j, ¬ standsAt inactivePattern c.2 j) (off : Nat) :
    processCandidate c off = fieldSteps c.2 c.1 off := by
  rw [processCandidate_of_long hlen,
    if_neg (mt (findPattern_isSome_iff inactivePattern_ne_nil c.2).1 (not_exists.2 h))]

end Sys2Proof.Machine

open Sys2Proof Sys2Proof.Machine

/-- Settles O50: the split is a cut by flags, whose clauses follow by induction over the cut. -/
theorem flagsCutTheBitsIntoCandidates : Obligations.FlagsCutTheBitsIntoCandidates := by
  intro b
  have hcut := splitFlags_flagCut b
  have hlen := hcut.length_eq
  obtain ⟨u, hu, hnone, heq⟩ := hcut.exists_eq_append
  have htail : b.drop (b.length - (splitFlags b).2) = u := by
    have hfront : (delimited (splitFlags b).1).length = b.length - (splitFlags b).2 := by
      have hb := congrArg List.length heq
      rw [List.length_append, hu] at hb
      omega
    have hdrop : (delimited (splitFlags b).1 ++ u).drop (delimited (splitFlags b).1).length = u := List.drop_left
    rwa [← heq, hfront] at hdrop
  rw [htail]
  refine ⟨by omega, heq, hcut.not_standsAt, hnone, fun n hn => ?_⟩
  rw [hcut.start_eq n hn, Nat.zero_add]

/-- Settles O51: the three clauses are the three branches of `processCandidate`. -/
theorem shortAndInactiveCandidatesAreRejected : Obligations.ShortAndInactiveCandidatesAreRejected :=
  fun _ off => ⟨fun hshort => processCandidate_of_short hshort off,
    fun hlen hinactive => processCandidate_of_inactive hlen hinactive off,
    fun hlen hactive => processCandidate_of_active hlen hactive off⟩

end

section
/-! PROOFS. How many descriptors and bytes a frame stage gives, and descriptor and frame RAM after it: what O9 rests on. -/

namespace Sys2Proof.Machine

/-! ## How much a bit sequence gives -/

/-- Destuffing only deletes. -/
theorem destuffUpTo_length_le (n : Nat) (c : Bits) : (destuffUpTo n c).length ≤ c.length := by
  induction n generalizing c with
  | zero => exact Nat.le_refl _
  | succ n ih =>
    rw [destuffUpTo]
    split
    next => exact Nat.le_refl _
    next p hfound =>
      have hend : p + 6 ≤ c.length := findPattern_le stuffPattern_ne_nil hfound
      have hrest := ih (c.drop (p + 6))
      rw [List.length_append, List.length_take]
      rw [List.length_drop] at hrest
      omega

theorem destuff_length_le (c : Bits) : (destuff c).length ≤ c.length := destuffUpTo_length_le _ c

/-- A candidate and its flag take at least the bits of the bytes it gives: the flag makes up for a partial last byte. -/
theorem processCandidate_bytes_le (c : Candidate) (off : Nat) :
    8 * (processCandidate c off).2.length ≤ c.2.length + 8 := by
  have hfields : 8 * (packBytes (destuff c.2)).length ≤ c.2.length + 8 := by
    have hle := destuff_length_le c.2
    rw [packBytes_length]
    omega
  unfold processCandidate
  split_ifs
  · exact Nat.zero_le _
  · exact Nat.zero_le _
  · exact hfields

theorem processAll_bytes_le (off : Nat) (cs : List Candidate) :
    8 * ((processAll off cs).flatMap Prod.snd).length ≤ (cs.map fun c => c.2.length + 8).sum := by
  induction cs generalizing off with
  | nil => exact Nat.le_refl _
  | cons c cs ih =>
    have hc := processCandidate_bytes_le c off
    have hcs := ih (off + (processCandidate c off).2.length)
    rw [processAll, List.flatMap_cons, List.length_append, List.map_cons, List.sum_cons]
    omega

@[simp] theorem extractFrames_descs_length (b : Bits) : (extractFrames b).descs.length = (splitFlags b).1.length := by
  simp [extractFrames]

/-- Each descriptor has a flag of eight bits to itself (41_frame_extractor.md R258). -/
theorem extractFrames_descs_le (b : Bits) : 8 * (extractFrames b).descs.length ≤ b.length := by
  have hlen := (splitFlags_flagCut b).length_eq
  have hflags : (splitFlags b).1.length * 8 ≤ ((splitFlags b).1.map fun c => c.2.length + 8).sum := by
    simp
  rw [extractFrames_descs_length]
  omega

/-- 42_destuff_crc.md R318. -/
theorem extractFrames_bytes_le (b : Bits) : 8 * (extractFrames b).bytes.length ≤ b.length := by
  have hlen := (splitFlags_flagCut b).length_eq
  have hbytes : 8 * (extractFrames b).bytes.length ≤ _ := processAll_bytes_le 0 (splitFlags b).1
  omega

theorem extractFrames_tail_le (b : Bits) : (extractFrames b).tail ≤ b.length := by
  have hlen := (splitFlags_flagCut b).length_eq
  have htail : (extractFrames b).tail = (splitFlags b).2 := rfl
  omega

/-! ## The counters -/

theorem countClass_le (cls : CandidateClass) (ds : List Descriptor) : countClass cls ds ≤ ds.length :=
  List.countP_le_length

theorem countGood_le (ds : List Descriptor) : countGood ds ≤ ds.length := List.countP_le_length

/-- A 32-bit counter holds every number up to one that fits. -/
theorem Word.toNat_ofNat_of_le {n m : Nat} (h : n ≤ m) (hm : m < 2 ^ 32) : (BitVec.ofNat 32 n).toNat = n :=
  Nat.mod_eq_of_lt (h.trans_lt hm)

/-- The nine totals, as numbers (10_state.md R44 to R52). -/
theorem FrameResult.counters_toNat {r : FrameResult} (hdescs : r.descs.length < 2 ^ 32)
    (hbytes : r.bytes.length < 2 ^ 32) (htail : r.tail < 2 ^ 32) :
    r.counters.ncand.toNat = r.descs.length ∧ r.counters.naccept.toNat = countClass .accept r.descs ∧
    r.counters.ncrcOk.toNat = countGood r.descs ∧ r.counters.nrejShort.toNat = countClass .rejShort r.descs ∧
    r.counters.nrejInact.toNat = countClass .rejInactive r.descs ∧
    r.counters.ndropLen.toNat = countClass .dropLen r.descs ∧
    r.counters.ndropAddr.toNat = countClass .dropAddr r.descs ∧
    r.counters.nframeBytes.toNat = r.bytes.length ∧ r.counters.tailbits.toNat = r.tail := by
  have hclass : ∀ cls, (BitVec.ofNat 32 (countClass cls r.descs)).toNat = countClass cls r.descs := fun cls =>
    Word.toNat_ofNat_of_le (countClass_le cls r.descs) hdescs
  exact ⟨Nat.mod_eq_of_lt hdescs, hclass .accept, Word.toNat_ofNat_of_le (countGood_le r.descs) hdescs,
    hclass .rejShort, hclass .rejInactive, hclass .dropLen, hclass .dropAddr, Nat.mod_eq_of_lt hbytes,
    Nat.mod_eq_of_lt htail⟩

/-! ## Words stored one behind the other -/

/-- An element of pieces of one size put together, by the piece it lies in. -/
theorem getD_flatMap_of_length {α β : Type} {f : α → List β} {size : Nat} (hf : ∀ x, (f x).length = size) (d : β)
    (xs : List α) (n : Nat) {k : Nat} (hk : k < size) :
    (xs.flatMap f).getD (size * n + k) d = ((xs.map f).getD n []).getD k d := by
  induction xs generalizing n with
  | nil => simp
  | cons x xs ih =>
    rw [List.flatMap_cons, List.map_cons]
    cases n with
    | zero =>
      rw [Nat.mul_zero, Nat.zero_add, List.getD_cons_zero, List.getD_append _ _ _ _ (by rwa [hf])]
    | succ n =>
      rw [List.getD_cons_succ, ← ih n, List.getD_append_right _ _ _ _ (by rw [hf, Nat.mul_succ]; omega), hf]
      congr 1
      rw [Nat.mul_succ]
      omega

theorem length_flatMap_of_length {α β : Type} {f : α → List β} {size : Nat} (hf : ∀ x, (f x).length = size)
    (xs : List α) : (xs.flatMap f).length = size * xs.length := by
  simp [List.length_flatMap, hf, Nat.mul_comm]

/-- Each of the words stored one behind the other is read back. -/
theorem State.wordAt_storeBytes_words (s : State) (m : Ram) (a : Nat) {ws : List Word} {i : Nat} (h : i < ws.length) :
    (s.storeBytes a (ws.flatMap wordBytes)).wordAt m (a + 4 * i) = ws.getD i 0#32 := by
  refine Word.eq_of_lanes fun k hk => ?_
  have hlen := length_flatMap_of_length wordBytes_length ws
  rw [State.wordAt_lane _ _ _ hk, Nat.add_assoc, State.byteAt_storeBytes_add _ (by omega),
    getD_flatMap_of_length wordBytes_length _ _ _ hk,
    List.getD_eq_getElem (ws.map wordBytes) _ (by rwa [List.length_map]), List.getElem_map, wordBytes_getD _ hk,
    List.getD_eq_getElem _ _ h]

/-- A word outside the range of stored bytes. -/
theorem State.wordAt_storeBytes_outside (s : State) {a b : Nat} {bs : List Byte}
    (h : b + 4 ≤ a ∨ a + bs.length ≤ b) (m : Ram) : (s.storeBytes a bs).wordAt m b = s.wordAt m b := by
  refine Word.eq_of_lanes fun k hk => ?_
  rw [State.wordAt_lane _ _ _ hk, State.wordAt_lane _ _ _ hk, State.byteAt_storeBytes_outside _ (by omega)]

/-! ## Descriptor and frame RAM after a frame stage -/

@[simp] theorem Descriptor.words_length (d : Descriptor) : d.words.length = 8 := rfl

/-- The words of the descriptors, one behind the other (30_encoding.md R160). -/
def FrameResult.descWords (r : FrameResult) : List Word := r.descs.flatMap Descriptor.words

theorem FrameResult.descWords_length (r : FrameResult) : r.descWords.length = 8 * r.descs.length :=
  length_flatMap_of_length Descriptor.words_length r.descs

/-- The bytes for frame RAM, the last word filled up with zeros (42_destuff_crc.md R317). -/
def FrameResult.frameRamBytes (r : FrameResult) : List Byte := padTo 4 0#8 r.bytes

theorem FrameResult.frameRamBytes_length (r : FrameResult) :
    r.frameRamBytes.length = 4 * ((r.bytes.length + 3) / 4) :=
  padTo_length 4 0#8 r.bytes (by decide)

/-- The frame stage stores the descriptors' words, then the frame bytes. -/
theorem FrameResult.store_eq (r : FrameResult) (m : Memory) : r.store m =
    Memory.setBytes (Memory.setBytes m Ram.desc.base (r.descWords.flatMap wordBytes)) Ram.frame.base
      r.frameRamBytes := by
  rw [FrameResult.descWords, List.flatMap_assoc]
  rfl

/-- The two stores of a frame stage. -/
def State.storeFrames (s : State) (r : FrameResult) : State :=
  (s.storeBytes Ram.desc.base (r.descWords.flatMap wordBytes)).storeBytes Ram.frame.base r.frameRamBytes

theorem State.frameStage_byteAt (s : State) (m : Ram) (a : Nat) :
    s.frameStage.byteAt m a = (s.storeFrames s.frameResult).byteAt m a := by
  rw [State.byteAt, State.frameStage_mem, FrameResult.store_eq]
  rfl

theorem State.frameStage_wordAt (s : State) (m : Ram) (a : Nat) :
    s.frameStage.wordAt m a = (s.storeFrames s.frameResult).wordAt m a := by
  simp only [State.wordAt, State.frameStage_byteAt]

/-- The bytes stored in frame RAM end below descriptor RAM (20_memory.md R101, 42_destuff_crc.md R318). -/
theorem FrameResult.frameRamBytes_le {r : FrameResult} (h : 8 * r.bytes.length < 2 ^ 23) :
    Ram.frame.base + r.frameRamBytes.length ≤ Ram.desc.base := by
  rw [FrameResult.frameRamBytes_length]
  simp only [Ram.base]
  omega

/-- Word `w` of descriptor `n`. -/
theorem State.storeFrames_wordAt_desc (s : State) {r : FrameResult} (hfit : 8 * r.bytes.length < 2 ^ 23) {n w : Nat}
    (hn : n < r.descs.length) (hw : w < 8) :
    (s.storeFrames r).wordAt .desc (Ram.desc.base + 32 * n + 4 * w)
      = ((r.descs.map Descriptor.words).getD n []).getD w 0#32 := by
  have hend := FrameResult.frameRamBytes_le hfit
  have hword : 8 * n + w < r.descWords.length := by rw [FrameResult.descWords_length]; omega
  rw [State.storeFrames, State.wordAt_storeBytes_outside _ (by omega),
    show Ram.desc.base + 32 * n + 4 * w = Ram.desc.base + 4 * (8 * n + w) by omega,
    State.wordAt_storeBytes_words _ _ _ hword]
  exact getD_flatMap_of_length Descriptor.words_length _ _ _ hw

/-- Frame RAM, in the words written: the bytes, and zeros behind the last one. -/
theorem State.storeFrames_byteAt_frame (s : State) {r : FrameResult} {j : Nat}
    (h : j < 4 * ((r.bytes.length + 3) / 4)) :
    (s.storeFrames r).byteAt .frame (Ram.frame.base + j) = r.bytes.getD j 0#8 := by
  rw [State.storeFrames, State.byteAt_storeBytes_add _ (by rwa [FrameResult.frameRamBytes_length]),
    FrameResult.frameRamBytes, padTo_getD]

/-- Outside the words written every byte is as before (41_frame_extractor.md R261, 42_destuff_crc.md R317). -/
theorem State.storeFrames_byteAt_outside (s : State) {r : FrameResult} {a : Nat}
    (hframe : a < Ram.frame.base ∨ Ram.frame.base + 4 * ((r.bytes.length + 3) / 4) ≤ a)
    (hdesc : a < Ram.desc.base ∨ Ram.desc.base + 32 * r.descs.length ≤ a) (m : Ram) :
    (s.storeFrames r).byteAt m a = s.byteAt m a := by
  have hlen : (r.descWords.flatMap wordBytes).length = 32 * r.descs.length := by
    rw [length_flatMap_of_length wordBytes_length, FrameResult.descWords_length]
    omega
  rw [State.storeFrames, State.byteAt_storeBytes_outside _ (by rwa [FrameResult.frameRamBytes_length]),
    State.byteAt_storeBytes_outside _ (by rwa [hlen])]

/-! ## The bits of a frame stage -/

@[simp] theorem State.inputBits_length (s : State) : s.inputBits.length = s.bitLength := by
  simp [State.inputBits]

/-- BITCOUNT has 23 bits (10_state.md R43). -/
theorem State.bitLength_lt (s : State) : s.bitLength < 2 ^ 23 := s.bitcount.isLt

/-- So no counter of a frame stage overflows, and its bytes end below descriptor RAM. -/
theorem State.frameResult_fits (s : State) : 8 * s.frameResult.descs.length < 2 ^ 23 ∧
    8 * s.frameResult.bytes.length < 2 ^ 23 ∧ s.frameResult.tail < 2 ^ 23 := by
  have hbits : s.inputBits.length < 2 ^ 23 := s.inputBits_length ▸ s.bitLength_lt
  exact ⟨(extractFrames_descs_le _).trans_lt hbits, (extractFrames_bytes_le _).trans_lt hbits,
    (extractFrames_tail_le _).trans_lt hbits⟩

@[simp] theorem State.finishJob_wordAt (s : State) (m : Ram) (a : Nat) : s.finishJob.wordAt m a = s.wordAt m a := rfl

end Sys2Proof.Machine

open Sys2Proof Sys2Proof.Machine

/-- Settles O9: the step stores the descriptors and the padded frame bytes in disjoint ranges, and no counter
overflows. -/
theorem completedFrameWritesItsReport : Obligations.CompletedFrameWritesItsReport := by
  intro s hturn hjob _
  obtain ⟨hdescs, hbytes, htail⟩ := s.frameResult_fits
  have hword : ∀ n < s.frameResult.descs.length, ∀ w < 8,
      s.takeEvent.frameStage.finishJob.wordAt .desc (0x1000000 + 32 * n + 4 * w)
        = ((s.frameResult.descs.map Descriptor.words).getD n []).getD w 0#32 := by
    intro n hn w hw
    rw [State.finishJob_wordAt, State.frameStage_wordAt]
    exact s.takeEvent.storeFrames_wordAt_desc hbytes hn hw
  have hbyte : ∀ j < 4 * ((s.frameResult.bytes.length + 3) / 4),
      s.takeEvent.frameStage.finishJob.byteAt .frame (0x0800000 + j) = s.frameResult.bytes.getD j 0#8 := by
    intro j hj
    rw [State.finishJob_byteAt, State.frameStage_byteAt]
    exact s.takeEvent.storeFrames_byteAt_frame hj
  obtain ⟨hncand, hnaccept, hncrcOk, hnrejShort, hnrejInact, hndropLen, hndropAddr, hnframeBytes, htailbits⟩ :=
    FrameResult.counters_toNat (r := s.frameResult) (by omega) (by omega) (by omega)
  refine ⟨s.takeEvent.frameStage.finishJob, step_of_runningJob hturn hjob, hword, fun j hj => ?bytes,
    fun j hge hlt => (hbyte j hlt).trans (List.getD_eq_default _ _ hge), fun m a hframe hdesc => ?frame, hncand,
    hnaccept, hncrcOk, hnrejShort, hnrejInact, hndropLen, hndropAddr, hnframeBytes, htailbits, rfl⟩
  case bytes =>
    exact hbyte j (Nat.lt_of_lt_of_le hj (by rw [State.frameResult]; omega))
  case frame =>
    rw [State.finishJob_byteAt, State.frameStage_byteAt]
    exact s.takeEvent.storeFrames_byteAt_outside hframe hdesc m

end

section
/-! PROOFS. Packed bytes, and the descriptor that the field steps give a candidate of each class (42_destuff_crc.md). -/

namespace Sys2Proof.Machine

/-! ## The checks in their order (42_destuff_crc.md R307) -/

theorem classifyBytes_of_short {bytes : List Byte} (h : bytes.length < 5) : classifyBytes bytes = .dropLen := if_pos h

theorem classifyBytes_of_addr {bytes : List Byte} (hlen : ¬ bytes.length < 5) (haddr : bytes.getD 0 0#8 ≠ 0xFF#8) :
    classifyBytes bytes = .dropAddr :=
  (if_neg hlen).trans (if_pos haddr)

theorem classifyBytes_of_accept {bytes : List Byte} (hlen : ¬ bytes.length < 5) (haddr : ¬ bytes.getD 0 0#8 ≠ 0xFF#8) :
    classifyBytes bytes = .accept :=
  (if_neg hlen).trans (if_neg haddr)

/-! ## The descriptor of each class (42_destuff_crc.md R308 to R310, R316) -/

/-- The descriptor of class `cls` as it stands before the CRC is evaluated: every CRC field is 0 (42_destuff_crc.md
R316). -/
def uncheckedDescriptor (cls : CandidateClass) (c d : Bits) (bytes : List Byte) (start off : Nat) : Descriptor :=
  { cls := cls, crcOk := false, resid := d.length % 8, candStart := start, candLen := c.length,
    dstufLen := d.length, byteOff := off, nbytes := bytes.length, crcCalc := 0#16, crcRx := 0#16 }

/-- Only an accepted array has its CRC evaluated (42_destuff_crc.md R315). -/
theorem describe_of_not_accept {bytes : List Byte} (h : classifyBytes bytes ≠ .accept) (c d : Bits) (start off : Nat) :
    describe c d bytes start off = uncheckedDescriptor (classifyBytes bytes) c d bytes start off := by
  unfold describe
  split
  next haccept => exact absurd haccept h
  next => rfl

theorem describe_of_accept {bytes : List Byte} (h : classifyBytes bytes = .accept) (c d : Bits) (start off : Nat) :
    describe c d bytes start off = { uncheckedDescriptor .accept c d bytes start off with
      crcOk := decide (crcCalc bytes = crcRx bytes), crcCalc := crcCalc bytes, crcRx := crcRx bytes } := by
  rw [describe, h]
  rfl

/-- The received CRC is the last two bytes as a little-endian number (42_destuff_crc.md R312). -/
theorem crcRx_toNat (bytes : List Byte) : (crcRx bytes).toNat
    = (bytes.getD (bytes.length - 2) 0#8).toNat + 256 * (bytes.getD (bytes.length - 1) 0#8).toNat := by
  rw [crcRx, BitVec.toNat_append, ← Nat.shiftLeft_add_eq_or_of_lt (BitVec.isLt _), Nat.shiftLeft_eq, Nat.add_comm,
    Nat.mul_comm]

end Sys2Proof.Machine

open Sys2Proof Sys2Proof.Machine

/-- Settles O58: the byte count is that of the windows of eight bits, and byte `j` is the number window `j` spells. -/
theorem packedBytesHoldTheBitsLsbFirst : Obligations.PackedBytesHoldTheBitsLsbFirst :=
  fun d => ⟨packBytes_length d, fun j _ _ ht => packBytes_getLsbD d j ht⟩

/-- Settles O52: one case for each branch of the checks. -/
theorem fieldStepsClassifyAndCheckTheCrc : Obligations.FieldStepsClassifyAndCheckTheCrc := by
  intro c start off bytes other
  refine ⟨rfl, ?_⟩
  have hother : ∀ cls, classifyBytes bytes = cls → cls ≠ .accept → (fieldSteps c start off).1 = other cls := by
    rintro _ rfl hne
    exact describe_of_not_accept hne c (destuff c) start off
  split_ifs with hlen haddr
  · exact hother .dropLen (classifyBytes_of_short hlen) (by decide)
  · exact hother .dropAddr (classifyBytes_of_addr hlen haddr) (by decide)
  · have hdesc : (fieldSteps c start off).1 = { other .accept with
        crcOk := decide (crcCalc bytes = crcRx bytes), crcCalc := crcCalc bytes, crcRx := crcRx bytes } :=
      describe_of_accept (classifyBytes_of_accept hlen haddr) c (destuff c) start off
    rw [hdesc]
    exact ⟨rfl, rfl, crcRx_toNat bytes, decide_eq_true_iff, rfl⟩

end

section
/-! PROOFS. NOP, and the checks of START in their order (43_commands.md R351, R357): what O15 and O17 rest on. -/

namespace Sys2Proof.Machine

/-! ## The first failing check of START -/

theorem EngineState.isBusy_iff_ne_idle (e : EngineState) : e.isBusy = true ↔ e ≠ .idle := by
  cases e <;> simp

/-- RUN and DEMOD check the engine, the sample rate and the sample count, and no bit count (43_commands.md R357). -/
theorem State.startError_of_demodulates (s : State) {j : Job} (hj : j.demodulates = true) :
    s.startError j = if s.engine ≠ .idle then some .busy else if s.sampleRate < 1000 then some .badSr
      else if s.sampleCount > s.sampleCap then some .badNsamp else none := by
  have hframe : j ≠ .frame := by
    rintro rfl
    cases hj
  simp only [State.startError, EngineState.isBusy_iff_ne_idle, hj, hframe, Bool.true_and, decide_false, Bool.false_and,
    Bool.false_eq_true, decide_eq_true_eq, if_false]
  rfl

/-- FRAME checks the engine and the bit count, and no operand of the demodulator (43_commands.md R357). -/
theorem State.startError_frame (s : State) :
    s.startError .frame = if s.engine ≠ .idle then some .busy else if s.bitLength > s.bitCap then some .badBitcount
      else none := by
  simp only [State.startError, EngineState.isBusy_iff_ne_idle, Job.demodulates, Bool.false_and, Bool.false_eq_true,
    decide_true, Bool.true_and, decide_eq_true_eq, if_false]

/-! ## START and its answer -/

theorem State.startJob_of_demodulates (s : State) {j : Job} (hj : j.demodulates = true) :
    s.startJob j = if s.engine ≠ .idle then s.raiseError .busy else if s.sampleRate < 1000 then s.raiseError .badSr
      else if s.sampleCount > s.sampleCap then s.raiseError .badNsamp else s.acceptJob j := by
  rw [State.startJob, s.startError_of_demodulates hj]
  split_ifs <;> rfl

theorem State.startJob_frame (s : State) :
    s.startJob .frame = if s.engine ≠ .idle then s.raiseError .busy
      else if s.bitLength > s.bitCap then s.raiseError .badBitcount else s.acceptJob .frame := by
  rw [State.startJob, s.startError_frame]
  split_ifs <;> rfl

/-- A command that raises an error still completes normally, and only the first error is recorded (60_exceptions.md
R402). -/
theorem State.respond_raiseError (s : State) (e : ErrorCode) : (s.raiseError e).respond false =
    if s.status.err then { s with resp := false }
    else { s with status := { s.status with err := true, errcode := e.code }, resp := false } := by
  rw [State.raiseError_eq_ite]
  split <;> rfl

theorem exec_nop (s : State) : exec .nop s = .next (s.respond false) := rfl
theorem exec_run (s : State) : exec .run s = .next ((s.startJob .run).respond false) := rfl
theorem exec_demod (s : State) : exec .demod s = .next ((s.startJob .demod).respond false) := rfl
theorem exec_frame (s : State) : exec .frame s = .next ((s.startJob .frame).respond false) := rfl

end Sys2Proof.Machine

open Sys2Proof Sys2Proof.Machine

/-- Settles O15: NOP answers the state it was given. -/
theorem nopChangesNothing : Obligations.NopChangesNothing :=
  exec_nop

/-- Settles O17: START's checks are the statement's, RUN's and DEMOD's by one argument, and each error it raises or job it
accepts is the statement's. -/
theorem startChecksComeInTheirOrder : Obligations.StartChecksComeInTheirOrder := by
  intro s raise accept
  have hraise : ∀ e, (s.raiseError e).respond false = raise e.code := s.respond_raiseError
  have haccept : ∀ j, (s.acceptJob j).respond false = accept j := fun _ => rfl
  have hdemodulating : ∀ j : Job, j.demodulates = true → (s.startJob j).respond false =
      if s.engine ≠ .idle then raise 2#4 else if s.sampleRate < 1000 then raise 3#4
      else if s.sampleCount > s.sampleCap then raise 4#4 else accept j := by
    intro j hj
    rw [s.startJob_of_demodulates hj]
    split_ifs
    · exact hraise .busy
    · exact hraise .badSr
    · exact hraise .badNsamp
    · exact haccept j
  refine ⟨?run, ?demod, ?frame⟩
  case run => rw [exec_run, hdemodulating .run rfl]
  case demod => rw [exec_demod, hdemodulating .demod rfl]
  case frame =>
    rw [exec_frame, s.startJob_frame]
    split_ifs
    · exact congrArg _ (hraise .busy)
    · exact congrArg _ (hraise .badBitcount)
    · exact congrArg _ (haccept .frame)

end

section
/-! PROOFS. The transaction record and the two directions of the decoder: what O1 to O3 and O5 rest on. -/

namespace Sys2Proof

/-! ## A transaction and its record (log 1) -/

/-- The four fields of a record of 66 bits are read back where they were put. -/
theorem extractLsb'_record (wdata : Word) (addr : Addr) (size : BitVec 7) (we : Bool) :
    (wdata ++ addr ++ size ++ BitVec.ofBool we).getLsbD 0 = we ∧
    (wdata ++ addr ++ size ++ BitVec.ofBool we).extractLsb' 1 7 = size ∧
    (wdata ++ addr ++ size ++ BitVec.ofBool we).extractLsb' 8 26 = addr ∧
    (wdata ++ addr ++ size ++ BitVec.ofBool we).extractLsb' 34 32 = wdata := by
  refine ⟨by rw [BitVec.getLsbD_append]; simp, ?_, ?_, ?_⟩
  · rw [BitVec.extractLsb'_append_eq_of_le (by decide)]
    exact BitVec.extractLsb'_append_eq_right
  · rw [BitVec.extractLsb'_append_eq_of_le (by decide), BitVec.extractLsb'_append_eq_of_le (by decide)]
    exact BitVec.extractLsb'_append_eq_right
  · rw [BitVec.extractLsb'_append_eq_of_le (by decide), BitVec.extractLsb'_append_eq_of_le (by decide)]
    exact BitVec.extractLsb'_append_eq_left

/-- No field of a transaction is lost in its record, if SIZE fits its seven bits (log 16). -/
theorem BusTransaction.ofBits_toBits {t : BusTransaction} (h : t.size < 128) : ofBits t.toBits = t := by
  obtain ⟨hwe, hsize, haddr, hwdata⟩ :=
    extractLsb'_record t.wdata t.addr (BitVec.ofNat 7 t.size ^^^ 4#7) t.we
  have hnat : (BitVec.ofNat 7 t.size ^^^ 4#7 ^^^ 4#7).toNat = t.size := by
    rw [BitVec.xor_assoc, BitVec.xor_self, BitVec.xor_zero, BitVec.toNat_ofNat, Nat.mod_eq_of_lt h]
  simp only [ofBits, toBits, hwe, hsize, haddr, hwdata, hnat]

theorem BusTransaction.size_ofBits_lt (b : BitVec 66) : (ofBits b).size < 128 := BitVec.isLt _

theorem encode_size_lt {i : Instr} (h : i.wellFormed = true) : (encode i).size < 128 := by
  cases i with
  | nop | run | demod | frame | abort => decide
  | busRead32 size addr => exact decide_eq_true_iff.1 h
  | busWrite32 size addr wdata =>
    obtain ⟨hsize, -⟩ := (Bool.and_eq_true _ _).mp h
    exact decide_eq_true_iff.1 hsize

/-! ## A transaction and its instruction -/

/-- Decoding undoes encoding, row by row of the opcode table. -/
theorem decode_encode {i : Instr} (h : i.wellFormed = true) : decode (encode i) = i := by
  cases i with
  | nop => exact Laws.DecodeEncode.nop h
  | run => exact Laws.DecodeEncode.run h
  | demod => exact Laws.DecodeEncode.demod h
  | frame => exact Laws.DecodeEncode.frame h
  | abort => exact Laws.DecodeEncode.abort h
  | busRead32 size addr => exact Laws.DecodeEncode.busRead32 size addr h
  | busWrite32 size addr wdata => exact Laws.DecodeEncode.busWrite32 size addr wdata h

/-- The words below five are those of the five commands. -/
theorem Word.exists_command_of_lt {v : Word} (h : v.toNat < 5) : ∃ c : Command, v = c.word := by
  have hcases : v = 0#32 ∨ v = 1#32 ∨ v = 2#32 ∨ v = 3#32 ∨ v = 4#32 := by bv_omega
  rcases hcases with rfl | rfl | rfl | rfl | rfl
  exacts [⟨.nop, rfl⟩, ⟨.run, rfl⟩, ⟨.demod, rfl⟩, ⟨.frame, rfl⟩, ⟨.abort, rfl⟩]

theorem Command.word_lt (c : Command) : c.word.toNat < 5 := by cases c <;> decide

/-- A word carries a command exactly if it is that command's word. -/
theorem decodeCommand_eq_ok_iff {v : Word} {c : Command} : decodeCommand v = .ok c ↔ v = c.word := by
  refine ⟨fun h => ?_, fun h => h ▸ decodeCommand_word c⟩
  rcases Nat.lt_or_ge v.toNat 5 with hlt | hge
  · obtain ⟨d, rfl⟩ := Word.exists_command_of_lt hlt
    rw [decodeCommand_word, Except.ok.injEq] at h
    rw [h]
  · obtain ⟨r, hr⟩ := decodeCommand_of_five_le hge
    rw [hr] at h
    nomatch h

/-- A word that is refused is none of the five. -/
theorem five_le_of_decodeCommand_eq_error {v : Word} {r : CommandRefusal} (h : decodeCommand v = .error r) :
    5 ≤ v.toNat := by
  refine Nat.le_of_not_lt fun hlt => ?_
  obtain ⟨c, rfl⟩ := Word.exists_command_of_lt hlt
  rw [decodeCommand_word] at h
  nomatch h

/-- A write transaction is a command's word written to CMD, or a BUS_WRITE32 that is no such write. -/
theorem decodeWrite_cases (size : Nat) (addr : Addr) (wdata : Word) :
    (∃ c : Command, size = 4 ∧ addr = 0x014#26 ∧ wdata = c.word ∧ decodeWrite size addr wdata = c.instr) ∨
    (isCommandWrite size addr wdata = false ∧ decodeWrite size addr wdata = .busWrite32 size addr wdata) := by
  unfold decodeWrite isCommandWrite
  split
  next hcmd =>
    obtain ⟨hsize, haddr⟩ := hcmd
    split
    next c hc => exact .inl ⟨c, hsize, haddr, decodeCommand_eq_ok_iff.1 hc, rfl⟩
    next r hr =>
      have hfive : 5 ≤ wdata.toNat := five_le_of_decodeCommand_eq_error hr
      exact .inr ⟨by simp [Nat.not_lt.2 hfive], rfl⟩
  next hother =>
    refine .inr ⟨?_, rfl⟩
    rw [not_and] at hother
    by_cases hsize : size = Config.accessSize
    · simp [hother hsize]
    · simp [hsize]

theorem encode_instr (c : Command) : encode c.instr = commandWrite c.word := by cases c <;> rfl

theorem wellFormed_instr (c : Command) : c.instr.wellFormed = true := by cases c <;> rfl

/-- Encoding undoes decoding; a read carries no WDATA (30_encoding.md R150). -/
theorem encode_decode (t : BusTransaction) :
    encode (decode t) = { t with wdata := if t.we then t.wdata else 0#32 } := by
  obtain ⟨we, size, addr, wdata⟩ := t
  cases we with
  | false => rfl
  | true =>
    show encode (decodeWrite size addr wdata) = _
    rcases decodeWrite_cases size addr wdata with ⟨c, rfl, rfl, rfl, hc⟩ | ⟨-, hw⟩
    · rw [hc, encode_instr]
      rfl
    · rw [hw]
      rfl

theorem wellFormed_decode {t : BusTransaction} (h : t.size < 128) : (decode t).wellFormed = true := by
  obtain ⟨we, size, addr, wdata⟩ := t
  have hfits : sizeFits size = true := decide_eq_true h
  cases we with
  | false => exact hfits
  | true =>
    show (decodeWrite size addr wdata).wellFormed = true
    rcases decodeWrite_cases size addr wdata with ⟨c, -, -, -, hc⟩ | ⟨hno, hw⟩
    · rw [hc, wellFormed_instr]
    · simp [hw, Instr.wellFormed, hfits, hno]

end Sys2Proof

open Sys2Proof Sys2Proof.Machine

/-- Settles O1: the record gives the transaction back, and the transaction the instruction. -/
theorem decodeOfEncodedRecordIsTheInstruction : Obligations.DecodeOfEncodedRecordIsTheInstruction := by
  intro i h
  rw [decodeBits, encodeBits, BusTransaction.ofBits_toBits (encode_size_lt h), decode_encode h]

/-- Settles O2: a write decodes to a command exactly when it delivers that command's word to CMD. -/
theorem encodeOfDecodedTransactionIsTheTransaction : Obligations.EncodeOfDecodedTransactionIsTheTransaction :=
  encode_decode

/-- Settles O3: a record has seven bits for SIZE, and a command's word written to CMD decodes to its row. -/
theorem decodedRecordsAreWellFormed : Obligations.DecodedRecordsAreWellFormed :=
  fun b => wellFormed_decode (BusTransaction.size_ofBits_lt b)

/-- Settles O5: each of the written-out words is decoded. -/
theorem writtenOutWordsDecode : Obligations.WrittenOutWordsDecode := by
  unfold Obligations.WrittenOutWordsDecode
  decide

end

section
/-! PROOFS. What an instruction can do to the block, said once for all of them, and what it does to the flags: what O37
and O38 rest on. -/

namespace Sys2Proof

/-- The two ways to issue a command: its own row of the opcode table, or a BUS_WRITE32 of its word to CMD, which the
decoder never gives (43_commands.md R350). -/
def Instr.issues (i : Instr) (c : Command) : Prop := i = c.instr ∨ i = .busWrite32 4 0x014#26 c.word

theorem Command.instr_ne_busWrite32 (c : Command) (size : Nat) (addr : Addr) (v : Word) :
    c.instr ≠ .busWrite32 size addr v := by
  cases c <;> exact Instr.noConfusion

/-- What the decoder gives issues a command only by the command's own row. -/
theorem decode_eq_instr_of_issues {t : BusTransaction} {c : Command} (h : (decode t).issues c) :
    decode t = c.instr := by
  rcases h with h | h
  · exact h
  obtain ⟨we, size, addr, wdata⟩ := t
  cases we with
  | false => nomatch h
  | true =>
    have hwrite : decodeWrite size addr wdata = .busWrite32 4 0x014#26 c.word := h
    rcases decodeWrite_cases size addr wdata with ⟨d, -, -, -, hd⟩ | ⟨hno, hw⟩
    · exact absurd (hd.symm.trans hwrite) (d.instr_ne_busWrite32 _ _ _)
    · obtain ⟨rfl, rfl, rfl⟩ := Instr.busWrite32.inj (hw.symm.trans hwrite)
      simp [isCommandWrite, Config.accessSize, Config.cmdOffset, c.word_lt] at hno

end Sys2Proof

namespace Sys2Proof.Machine

/-! ## The effects of an instruction -/

/-- The command that starts a job (30_encoding.md R152). -/
def Job.command : Job → Command
  | .run => .run
  | .demod => .demod
  | .frame => .frame

theorem Job.instr_command (j : Job) : j.command.instr = j.instr := by cases j <;> rfl

/-- An offset whose write a running job makes ignored: an operand register, or a word of a host-written RAM
(20_memory.md R119). -/
def State.inputAt (s : State) (a : Nat) : Prop :=
  (∃ r : Reg, r.isInput ∧ r.offset = a) ∨ ∃ m : Ram, m.hostWritable = true ∧ s.backs m a = true

/-- `Effect s i u`: the instruction `i` takes the block from `s` to `u`, the answer of the transaction (RDATA and RESP)
left out. -/
inductive Effect (s : State) : Instr → State → Prop where
  | nothing (i : Instr) : Effect s i s
  | draw (size : Nat) (addr : Addr) : Effect s (.busRead32 size addr) { s with epochs := s.epochs.advance }
  | start {i : Instr} (j : Job) (hi : i.issues j.command) : Effect s i (s.startJob j)
  | abort {i : Instr} (hi : i.issues .abort) : Effect s i s.abortJob
  | illegal {v : Word} (hv : 5 ≤ v.toNat) : Effect s (.busWrite32 4 0x014#26 v) (s.raiseError .illegalCmd)
  | clear (v : Word) : Effect s (.busWrite32 4 0x018#26 v) (s.writeStatus v)
  | enableIrq (addr : Addr) (v : Word) : Effect s (.busWrite32 4 addr v) { s with irqEn := v.getLsbD 0 }
  | ignored {addr : Addr} (v : Word) (hbusy : s.engine ≠ .idle) (haddr : s.inputAt addr.toNat) :
      Effect s (.busWrite32 4 addr v) s.ignoreWrite
  | operand {r : Reg} (addr : Addr) (v : Word) (hidle : s.engine = .idle) (hr : r.isInput) :
      Effect s (.busWrite32 4 addr v) (s.writeReg v r)
  | store {m : Ram} {a : Nat} {addr : Addr} (v : Word) (hidle : s.engine = .idle) (hm : m.hostWritable = true)
      (hloc : s.locate 4 addr = some (.ram m a)) : Effect s (.busWrite32 4 addr v) (s.writeRam m a v)

theorem Addr.eq_of_toNat_eq {addr : Addr} {n : Nat} (h : addr.toNat = n) : addr = BitVec.ofNat 26 n := by
  rw [← h, BitVec.ofNat_toNat, BitVec.setWidth_eq]

/-- A word written to CMD. -/
theorem State.onCmd_effect (s : State) (v : Word) : Effect s (.busWrite32 4 0x014#26 v) (s.onCmd v) := by
  have hissues : ∀ {c}, decodeCommand v = .ok c → (Instr.busWrite32 4 0x014#26 v).issues c :=
    fun h => .inr (by rw [decodeCommand_eq_ok_iff.1 h])
  rcases s.onCmd_cases v with ⟨r, hr, heq⟩ | ⟨-, heq⟩ | ⟨j, heq, hj⟩ | ⟨hr, heq⟩
  · exact heq ▸ .illegal (five_le_of_decodeCommand_eq_error hr)
  · rw [heq]
    exact .nothing _
  · refine heq ▸ .start j ?_
    rcases hj with ⟨hr, rfl⟩ | ⟨hr, rfl⟩ | ⟨hr, rfl⟩ <;> exact hissues hr
  · exact heq ▸ .abort (hissues hr)

/-- A write to a register that a job takes its operands from: ignored while a job runs (20_memory.md R119). -/
theorem State.writeReg_effect_of_isInput (s : State) {addr : Addr} {r : Reg} (hr : r.isInput)
    (haddr : r.offset = addr.toNat) (v : Word) : Effect s (.busWrite32 4 addr v) (s.writeReg v r) := by
  cases hengine : s.engine with
  | idle => exact .operand addr v hengine hr
  | busy j =>
    rw [State.writeReg_of_busy hengine hr]
    exact .ignored v (by simp [hengine]) (.inl ⟨r, hr, haddr⟩)

/-- A write to a register. -/
theorem State.writeReg_effect (s : State) {addr : Addr} {r : Reg} (haddr : r.offset = addr.toNat) (v : Word) :
    Effect s (.busWrite32 4 addr v) (s.writeReg v r) := by
  cases r with
  | cmd =>
    obtain rfl : addr = 0x014#26 := Addr.eq_of_toNat_eq haddr.symm
    exact s.onCmd_effect v
  | status =>
    obtain rfl : addr = 0x018#26 := Addr.eq_of_toNat_eq haddr.symm
    exact .clear v
  | ctrl => exact .enableIrq addr v
  | sr => exact s.writeReg_effect_of_isInput (by simp [Reg.isInput]) haddr v
  | thresh => exact s.writeReg_effect_of_isInput (by simp [Reg.isInput]) haddr v
  | nsamp => exact s.writeReg_effect_of_isInput (by simp [Reg.isInput]) haddr v
  | bitcount => exact s.writeReg_effect_of_isInput (by simp [Reg.isInput]) haddr v
  | id | version | cap | ncand | naccept | ncrcOk | nrejShort | nrejInact | ndropLen | ndropAddr | nframeBytes
  | tailbits => exact .nothing _

/-- A write to a location. -/
theorem State.writeLocation_effect (s : State) {addr : Addr} {l : Location} (hloc : s.locate 4 addr = some l)
    (v : Word) : Effect s (.busWrite32 4 addr v) (s.writeLocation v l) := by
  obtain ⟨-, -, hbacked⟩ := State.locate_eq_some.1 hloc
  cases l with
  | reg r => exact s.writeReg_effect (Reg.offset_of_at (State.backed_reg hbacked)) v
  | ram m a =>
    cases hm : m.hostWritable with
    | false =>
      have hsame : s.writeLocation v (.ram m a) = s := by
        cases m with
        | sample | bit => nomatch hm
        | frame | desc => rfl
      rw [hsame]
      exact .nothing _
    | true =>
      cases hengine : s.engine with
      | idle =>
        have hwrite : s.writeLocation v (.ram m a) = s.writeRam m a v := by simp [State.writeLocation, hengine]
        exact hwrite ▸ .store v hengine hm hloc
      | busy j =>
        rw [State.writeLocation_ram_of_busy hengine hm]
        exact .ignored v (by simp [hengine]) (.inr ⟨m, hm, (State.backed_ram hbacked).2⟩)

/-- Every instruction answers a next state: one of the effects, and the answer of the transaction. -/
theorem exec_effect (i : Instr) (s : State) : ∃ u v e, Effect s i u ∧ exec i s = .next (u.respondRead v e) := by
  cases i with
  | nop => exact ⟨s, s.rdata, false, .nothing _, rfl⟩
  | run => exact ⟨s.startJob .run, _, false, .start .run (.inl rfl), rfl⟩
  | demod => exact ⟨s.startJob .demod, _, false, .start .demod (.inl rfl), rfl⟩
  | frame => exact ⟨s.startJob .frame, _, false, .start .frame (.inl rfl), rfl⟩
  | abort => exact ⟨s.abortJob, _, false, .abort (.inl rfl), rfl⟩
  | busRead32 size addr =>
    rw [exec_busRead32]
    rcases execBusRead32_cases size addr s with ⟨-, h⟩ | ⟨-, -, -, h⟩ | ⟨l, -, -, h⟩
    · exact ⟨s, _, true, .nothing _, h⟩
    · exact ⟨_, _, false, .draw size addr, h⟩
    · exact ⟨s, _, false, .nothing _, h⟩
  | busWrite32 size addr v =>
    rw [exec_busWrite32]
    rcases execBusWrite32_cases size addr v s with ⟨-, h⟩ | ⟨l, hl, h⟩
    · exact ⟨s, s.rdata, true, .nothing _, h⟩
    · obtain ⟨rfl, -, -⟩ := State.locate_eq_some.1 hl
      exact ⟨s.writeLocation v l, _, false, s.writeLocation_effect hl v, h⟩

theorem exists_effect_of_exec {i : Instr} {s t : State} (h : exec i s = .next t) :
    ∃ u v e, Effect s i u ∧ t = u.respondRead v e := by
  obtain ⟨u, v, e, hu, hexec⟩ := exec_effect i s
  rw [hexec, Host.Outcome.next.injEq] at h
  exact ⟨u, v, e, hu, h.symm⟩

/-! ## What an effect does to the flags -/

/-- `FlagChange s i e st`: the instruction `i` leaves EngineState `e` and STATUS `st` (10_state.md R38). -/
inductive FlagChange (s : State) (i : Instr) : EngineState → Status → Prop where
  | kept : FlagChange s i s.engine s.status
  | accepted (j : Job) (hi : i.issues j.command) (hpassed : s.startError j = none) :
      FlagChange s i (.busy j) s.status.accepted
  | recorded (e : ErrorCode)
      (hi : (∃ j : Job, i.issues j.command) ∨ ∃ v : Word, 5 ≤ v.toNat ∧ i = .busWrite32 4 0x014#26 v) :
      FlagChange s i s.engine (s.status.record e)
  | aborted (hi : i.issues .abort) (hbusy : s.engine ≠ .idle) :
      FlagChange s i .idle { s.status with aborted := true }
  | cleared (v : Word) (hi : i = .busWrite32 4 0x018#26 v) : FlagChange s i s.engine (s.status.w1c v)
  | ignored {addr : Addr} {v : Word} (hi : i = .busWrite32 4 addr v) (hbusy : s.engine ≠ .idle)
      (haddr : s.inputAt addr.toNat) : FlagChange s i s.engine { s.status with werr := true }

theorem State.drawOutputs_status (s : State) (j : Job) : (s.drawOutputs j).status = s.status := by cases j <;> rfl

/-- An operand written while idle: no other part of the block changes (10_state.md R40 to R43). -/
theorem State.writeReg_of_idle {s : State} {r : Reg} (hidle : s.engine = .idle) (hr : r.isInput) (v : Word) :
    ∃ sr thresh nsamp bitcount,
      s.writeReg v r = { s with sr := sr, thresh := thresh, nsamp := nsamp, bitcount := bitcount } := by
  rcases hr with rfl | rfl | rfl | rfl <;> simp only [State.writeReg, hidle, EngineState.isBusy_idle]
  exacts [⟨v.setWidth 18, _, _, _, rfl⟩, ⟨_, v.setWidth 22, _, _, rfl⟩, ⟨_, _, v.setWidth 23, _, rfl⟩,
    ⟨_, _, _, v.setWidth 23, rfl⟩]

/-- The bytes a host write stores in a RAM word (20_memory.md R104, R105). -/
theorem State.writeRam_eq_storeBytes (s : State) {m : Ram} (hm : m.hostWritable = true) (a : Nat) (v : Word) :
    ∃ bs, s.writeRam m a v = s.storeBytes a bs ∧ bs.length ≤ 4 ∧ (m = .sample → bs.length = 2) := by
  cases m with
  | sample => exact ⟨sampleBytes v, rfl, by simp [sampleBytes], fun _ => rfl⟩
  | bit => exact ⟨wordBytes v, rfl, by simp, by simp⟩
  | frame | desc => nomatch hm

theorem Effect.flagChange {s u : State} {i : Instr} (h : Effect s i u) : FlagChange s i u.engine u.status := by
  cases h with
  | nothing | draw | enableIrq => exact .kept
  | start j hi =>
    rcases s.startJob_cases j with ⟨e, -, heq⟩ | ⟨hpassed, heq⟩ <;> rw [heq]
    · exact .recorded e (.inl ⟨j, hi⟩)
    · exact .accepted j hi hpassed
  | abort hi =>
    rcases s.abortJob_cases with ⟨-, heq⟩ | ⟨j, hbusy, heq⟩ <;> rw [heq]
    · exact .kept
    · rw [State.endAborted_status, State.drawOutputs_status]
      exact .aborted hi (by simp [hbusy])
  | illegal hv => exact .recorded .illegalCmd (.inr ⟨_, hv, rfl⟩)
  | clear v => exact .cleared v rfl
  | ignored v hbusy haddr => exact .ignored rfl hbusy haddr
  | operand addr v hidle hr =>
    obtain ⟨_, _, _, _, heq⟩ := State.writeReg_of_idle hidle hr v
    rw [heq]
    exact .kept
  | store v hidle hm hloc =>
    obtain ⟨_, heq, -⟩ := s.writeRam_eq_storeBytes hm _ v
    rw [heq]
    exact .kept

section
variable {s : State} {i : Instr} {e : EngineState} {st : Status}

/-! ## What sets a flag (10_state.md R38, "set by") -/

theorem FlagChange.issues_of_busy (h : FlagChange s i e st) {j : Job} (hidle : s.engine = .idle)
    (hset : e = .busy j) : i.issues j.command := by
  cases h with
  | accepted k hi =>
    obtain rfl := EngineState.busy.inj hset
    exact hi
  | kept | recorded | aborted | cleared | ignored => simp [hidle] at hset

/-- No instruction sets DONE. -/
theorem FlagChange.done_of_done (h : FlagChange s i e st) (hset : st.done = true) : s.status.done = true := by
  cases h with
  | kept | aborted | ignored => exact hset
  | accepted => nomatch hset
  | recorded => rwa [Status.record_done] at hset
  | cleared v => exact (Bool.and_eq_true_iff.1 hset).1

theorem FlagChange.cause_of_err (h : FlagChange s i e st) (hclear : s.status.err = false) (hset : st.err = true) :
    (∃ j : Job, i.issues j.command) ∨ ∃ v : Word, 5 ≤ v.toNat ∧ i = .busWrite32 4 0x014#26 v := by
  cases h with
  | recorded e hi => exact hi
  | kept | accepted | aborted | cleared | ignored => simp [Status.accepted, Status.w1c, hclear] at hset

theorem FlagChange.cause_of_aborted (h : FlagChange s i e st) (hclear : s.status.aborted = false)
    (hset : st.aborted = true) : i.issues .abort ∧ s.engine ≠ .idle := by
  cases h with
  | aborted hi hbusy => exact ⟨hi, hbusy⟩
  | kept | accepted | recorded | cleared | ignored => simp [Status.accepted, Status.w1c, hclear] at hset

theorem FlagChange.cause_of_werr (h : FlagChange s i e st) (hclear : s.status.werr = false) (hset : st.werr = true) :
    ∃ addr v, i = .busWrite32 4 addr v ∧ s.engine ≠ .idle ∧ s.inputAt addr.toNat := by
  cases h with
  | ignored hi hbusy haddr => exact ⟨_, _, hi, hbusy, haddr⟩
  | kept | accepted | recorded | aborted | cleared => simp [Status.accepted, Status.w1c, hclear] at hset

/-! ## What clears a flag (10_state.md R38, "cleared by") -/

theorem FlagChange.issues_of_idle (h : FlagChange s i e st) (hbusy : s.engine ≠ .idle) (hend : e = .idle) :
    i.issues .abort := by
  cases h with
  | aborted hi => exact hi
  | accepted => nomatch hend
  | kept | recorded | cleared | ignored => exact absurd hend hbusy

theorem FlagChange.cause_of_not_done (h : FlagChange s i e st) (hset : s.status.done = true)
    (hclear : st.done = false) :
    (∃ j : Job, i.issues j.command) ∨ ∃ v : Word, v.getLsbD 1 = true ∧ i = .busWrite32 4 0x018#26 v := by
  cases h with
  | accepted j hi => exact .inl ⟨j, hi⟩
  | cleared v hi => exact .inr ⟨v, by simpa [Status.w1c, hset] using hclear, hi⟩
  | kept | recorded | aborted | ignored => simp [hset] at hclear

theorem FlagChange.cause_of_not_aborted (h : FlagChange s i e st) (hset : s.status.aborted = true)
    (hclear : st.aborted = false) :
    (∃ j : Job, i.issues j.command) ∨ ∃ v : Word, v.getLsbD 3 = true ∧ i = .busWrite32 4 0x018#26 v := by
  cases h with
  | accepted j hi => exact .inl ⟨j, hi⟩
  | cleared v hi => exact .inr ⟨v, by simpa [Status.w1c, hset] using hclear, hi⟩
  | kept | recorded | aborted | ignored => simp [hset] at hclear

/-- ERR and its code stay until the W1C write of ERR (60_exceptions.md R402). -/
theorem FlagChange.cause_of_not_err (h : FlagChange s i e st) (hset : s.status.err = true)
    (hclear : st.err = false ∨ st.errcode ≠ s.status.errcode) :
    ∃ v : Word, v.getLsbD 2 = true ∧ i = .busWrite32 4 0x018#26 v := by
  cases h with
  | cleared v hi =>
    refine ⟨v, ?_, hi⟩
    rcases hclear with herr | hcode
    · simpa [Status.w1c, hset] using herr
    · by_contra hkept
      exact hcode (if_neg hkept)
  | kept | accepted | recorded | aborted | ignored => simp [Status.accepted, Status.record, hset] at hclear

theorem FlagChange.cause_of_not_werr (h : FlagChange s i e st) (hset : s.status.werr = true)
    (hclear : st.werr = false) : ∃ v : Word, v.getLsbD 4 = true ∧ i = .busWrite32 4 0x018#26 v := by
  cases h with
  | cleared v hi => exact ⟨v, by simpa [Status.w1c, hset] using hclear, hi⟩
  | kept | accepted | recorded | aborted | ignored => simp [Status.accepted, hset] at hclear

end

/-! ## The flags over a step -/

/-- What one step does to EngineState and STATUS: the head of the schedule is a transaction, the engine's turn, or the
reset. -/
theorem step_flags {s t : State} (h : step s = .next t) :
    (∃ tr, s.nextEvent = .host tr ∧ FlagChange s.takeEvent (decode tr) t.engine t.status) ∨
    (s.nextEvent = .engine ∧ t.engine = .idle ∧
      (s.engine = .idle ∧ t.status = s.status ∨ s.engine ≠ .idle ∧ t.status = { s.status with done := true })) ∨
    (s.nextEvent = .reset ∧ t.engine = .idle ∧ t.status = State.reset.status) := by
  cases hev : s.nextEvent with
  | host tr =>
    rw [step_of_host hev] at h
    obtain ⟨u, v, e, hu, rfl⟩ := exists_effect_of_exec h
    exact .inl ⟨tr, rfl, hu.flagChange⟩
  | engine =>
    rw [step_of_engine hev, Host.Outcome.next.injEq] at h
    subst h
    refine .inr (.inl ⟨rfl, ?_⟩)
    rcases s.takeEvent.engineTurn_cases with ⟨hidle, heq⟩ | ⟨j, hbusy, heq⟩ <;> rw [heq]
    · exact ⟨hidle, .inl ⟨hidle, rfl⟩⟩
    · have hstatus : (s.takeEvent.runStages j).status = s.status := by cases j <;> rfl
      rw [State.takeEvent_engine] at hbusy
      exact ⟨rfl, .inr ⟨by simp [hbusy], by rw [State.complete, State.finishJob_status, hstatus]⟩⟩
  | reset =>
    rw [step_of_reset hev, Host.Outcome.next.injEq] at h
    subst h
    exact .inr (.inr ⟨rfl, rfl, rfl⟩)

theorem Job.instr_mem (j : Job) : j.instr ∈ [Instr.run, .demod, .frame] := by cases j <;> decide

/-- What the decoder gives starts a job by the job's row. -/
theorem decode_eq_instr_of_issues_command {tr : BusTransaction} {j : Job} (h : (decode tr).issues j.command) :
    decode tr = j.instr := j.instr_command ▸ decode_eq_instr_of_issues h

theorem decode_mem_of_issues_command {tr : BusTransaction} (h : ∃ j : Job, (decode tr).issues j.command) :
    decode tr ∈ [Instr.run, .demod, .frame] := by
  obtain ⟨j, hj⟩ := h
  exact decode_eq_instr_of_issues_command hj ▸ j.instr_mem

/-- The offsets of 20_memory.md R119, as the statement lists them. -/
theorem State.inputAt.bounds {s : State} {addr : Addr} (h : s.inputAt addr.toNat) :
    addr ∈ [0x020#26, 0x024#26, 0x028#26, 0x02C#26] ∨
      (0x0400000 ≤ addr.toNat ∧ addr.toNat < 0x0400000 + 4 * (s.bitCap / 32)) ∨
      (0x2000000 ≤ addr.toNat ∧ addr.toNat < 0x2000000 + 4 * s.sampleCap) := by
  rcases h with ⟨r, hr, haddr⟩ | ⟨m, hm, hbacks⟩
  · left
    rw [Addr.eq_of_toNat_eq haddr.symm]
    rcases hr with rfl | rfl | rfl | rfl <;> decide
  · right
    have hrange := State.backs_iff.1 hbacks
    cases m with
    | bit => exact .inl hrange
    | sample => exact .inr hrange
    | frame | desc => nomatch hm

end Sys2Proof.Machine

open Sys2Proof Sys2Proof.Machine

/-- Settles O37: a transaction sets a flag only by its cause, the engine's turn sets DONE only, and reset none. -/
theorem statusBitsAreSetOnlyByTheirCauses : Obligations.StatusBitsAreSetOnlyByTheirCauses := by
  intro s t hstep
  rcases step_flags hstep with ⟨tr, hev, hflags⟩ | ⟨hev, hidle, hturn⟩ | ⟨-, hidle, hreset⟩
  · refine ⟨fun hidle j hj => ⟨tr, hev, decode_eq_instr_of_issues_command (hflags.issues_of_busy hidle hj)⟩,
      fun hclear hset => ?_, fun hclear hset => ⟨tr, hev, ?_⟩, fun hclear hset => ⟨tr, hev, ?_⟩,
      fun hclear hset => ?_⟩
    · have hdone : s.status.done = true := hflags.done_of_done hset
      simp [hclear] at hdone
    · exact (hflags.cause_of_err hclear hset).imp_left decode_mem_of_issues_command
    · exact (hflags.cause_of_aborted hclear hset).imp_left decode_eq_instr_of_issues
    · obtain ⟨addr, v, hi, hbusy, haddr⟩ := hflags.cause_of_werr hclear hset
      exact ⟨tr, addr, v, hev, hi, hbusy, haddr.bounds⟩
  · rcases hturn with ⟨-, hkept⟩ | ⟨hbusy, hdone⟩ <;> simp_all
  · simp_all [State.reset]

/-- Settles O38: a transaction clears a flag only by its cause, and the engine's turn clears none but BUSY. -/
theorem statusBitsAreClearedOnlyByTheirCauses : Obligations.StatusBitsAreClearedOnlyByTheirCauses := by
  intro s t hstep hnoreset
  rcases step_flags hstep with ⟨tr, hev, hflags⟩ | ⟨hev, hidle, hturn⟩ | ⟨hev, -, -⟩
  · refine ⟨fun hbusy hidle => .inr ⟨tr, hev, decode_eq_instr_of_issues (hflags.issues_of_idle hbusy hidle)⟩,
      fun hset hclear => ⟨tr, hev, ?_⟩, fun hset hclear => ?_, fun hset hclear => ⟨tr, hev, ?_⟩,
      fun hset hclear => ?_⟩
    · exact (hflags.cause_of_not_done hset hclear).imp_left decode_mem_of_issues_command
    · obtain ⟨v, hv, hi⟩ := hflags.cause_of_not_err hset hclear
      exact ⟨tr, v, hev, hv, hi⟩
    · exact (hflags.cause_of_not_aborted hset hclear).imp_left decode_mem_of_issues_command
    · obtain ⟨v, hv, hi⟩ := hflags.cause_of_not_werr hset hclear
      exact ⟨tr, v, hev, hv, hi⟩
  · rcases hturn with ⟨-, hkept⟩ | ⟨hbusy, hdone⟩ <;> simp_all
  · exact absurd hev hnoreset

end

section
/-! PROOFS. What an instruction leaves of the RAMs and the other registers, and what ABORT makes of its outputs: what
O20, O35 and O36 rest on. -/

namespace Sys2Proof.Machine

/-! ## A RAM made a draw -/

/-- One RAM becomes a draw (log 7). -/
def State.drawRam (s : State) (r : Ram) : State := { s with mem := Memory.forget s.mem r, epochs := s.epochs.renew r }

theorem State.drawRam_byteAt (s : State) (r : Ram) {m : Ram} {a : Nat} (ha : m.holds a = true) :
    (s.drawRam r).byteAt m a = if m = r then Config.ramDraw s.epochs.next a else s.byteAt m a := by
  rw [State.byteAt, State.drawRam, Memory.get_forget]
  split_ifs with hr hm hm
  · simp [hm]
  · exact absurd (Ram.holds_unique ha hr) hm
  · exact absurd (hm ▸ ha) hr
  · rw [DrawEpochs.renew_of_ne _ hm, State.byteAt]

theorem State.drawRam_next (s : State) (r : Ram) : (s.drawRam r).epochs.next = s.epochs.next :=
  DrawEpochs.renew_next _ _

/-! ## ABORT -/

/-- The list of 20_memory.md R118 and the model's own agree. -/
theorem outputOf_eq_writes (j : Job) (l : Location) : outputOf j l = j.writes l := by
  cases l with
  | reg r => cases j <;> cases r <;> rfl
  | ram m a => cases j <;> cases m <;> rfl

theorem State.drawOutputs_epochs_next (s : State) (j : Job) : (s.drawOutputs j).epochs.next = s.epochs.next := by
  cases j <;> rfl

/-- The RAMs a job writes become draws of the next number, and no other byte changes (43_commands.md R355). -/
theorem State.drawOutputs_byteAt (s : State) (j : Job) {m : Ram} {a : Nat} (ha : m.holds a = true) :
    (s.drawOutputs j).byteAt m a = if j.writesRam m then Config.ramDraw s.epochs.next a else s.byteAt m a := by
  have hdemod : s.drawDemodOutputs.byteAt m a = (s.drawRam .bit).byteAt m a := rfl
  have hframe : ∀ t : State, t.drawFrameOutputs.byteAt m a = ((t.drawRam .frame).drawRam .desc).byteAt m a :=
    fun _ => rfl
  have hnext : s.drawDemodOutputs.epochs.next = s.epochs.next := rfl
  cases j <;> simp only [State.drawOutputs, hdemod, hframe, hnext, State.drawRam_byteAt _ _ ha, State.drawRam_next] <;>
    cases m <;> rfl

theorem State.endAborted_byteAt (s : State) (m : Ram) (a : Nat) : s.endAborted.byteAt m a = s.byteAt m a := by
  rw [State.byteAt, State.endAborted_epochs, DrawEpochs.advance_of]
  rfl

/-- ABORT of a running job (43_commands.md R355). -/
theorem State.abortJob_of_busy {s : State} {j : Job} (h : s.engine = .busy j) :
    s.abortJob = (s.drawOutputs j).endAborted := by
  rw [State.abortJob, h]

theorem State.abortJob_of_idle {s : State} (h : s.engine = .idle) : s.abortJob = s := by
  rw [State.abortJob, h]

theorem State.abortJob_byteAt {s : State} {j : Job} (h : s.engine = .busy j) {m : Ram} {a : Nat}
    (ha : m.holds a = true) :
    s.abortJob.byteAt m a = if outputOf j (.ram m a) then Config.ramDraw s.epochs.next a else s.byteAt m a := by
  rw [State.abortJob_of_busy h, State.endAborted_byteAt, s.drawOutputs_byteAt j ha, outputOf_eq_writes]
  rfl

/-! ## What an effect leaves -/

/-- Operands, results, SAMPLE_CAP and every byte of every RAM are the same in both states, and a running job goes on. -/
structure Undisturbed (s u : State) : Prop where
  engine : s.engine ≠ .idle → u.engine = s.engine
  capUnits : u.capUnits = s.capUnits
  sr : u.sr = s.sr
  thresh : u.thresh = s.thresh
  nsamp : u.nsamp = s.nsamp
  bitcount : u.bitcount = s.bitcount
  counters : u.counters = s.counters
  mem : u.mem = s.mem
  draws : ∀ m, u.epochs.of m = s.epochs.of m

theorem Undisturbed.refl (s : State) : Undisturbed s s :=
  ⟨fun _ => rfl, rfl, rfl, rfl, rfl, rfl, rfl, rfl, fun _ => rfl⟩

theorem Undisturbed.byteAt {s u : State} (h : Undisturbed s u) (m : Ram) (a : Nat) : u.byteAt m a = s.byteAt m a :=
  State.byteAt_of_get (by rw [h.mem]) (h.draws m)

theorem State.startJob_undisturbed (s : State) (j : Job) : Undisturbed s (s.startJob j) := by
  rcases s.startJob_cases j with ⟨e, -, heq⟩ | ⟨hpassed, heq⟩ <;> rw [heq]
  · exact ⟨fun _ => rfl, rfl, rfl, rfl, rfl, rfl, rfl, rfl, fun _ => rfl⟩
  · obtain ⟨hidle, -⟩ := (s.startError_none_iff j).1 hpassed
    exact ⟨absurd hidle, rfl, rfl, rfl, rfl, rfl, rfl, rfl, fun _ => rfl⟩

/-- Only an ABORT of a running job and an idle write of an operand or a RAM word change the data. -/
theorem Effect.data_cases {s u : State} {i : Instr} (h : Effect s i u) :
    Undisturbed s u ∨ (i.issues .abort ∧ s.engine ≠ .idle ∧ u = s.abortJob) ∨
    (s.engine = .idle ∧ u.mem = s.mem ∧ u.epochs = s.epochs) ∨
    ∃ m a addr v, s.engine = .idle ∧ i = .busWrite32 4 addr v ∧ s.locate 4 addr = some (.ram m a) ∧
      m.hostWritable = true ∧ u = s.writeRam m a v := by
  cases h with
  | nothing => exact .inl (.refl s)
  | draw => exact .inl ⟨fun _ => rfl, rfl, rfl, rfl, rfl, rfl, rfl, rfl, s.epochs.advance_of⟩
  | start j => exact .inl (s.startJob_undisturbed j)
  | abort hi =>
    cases hengine : s.engine with
    | idle =>
      rw [State.abortJob_of_idle hengine]
      exact .inl (.refl s)
    | busy j => exact .inr (.inl ⟨hi, nofun, rfl⟩)
  | illegal | clear | enableIrq | ignored => exact .inl ⟨fun _ => rfl, rfl, rfl, rfl, rfl, rfl, rfl, rfl, fun _ => rfl⟩
  | operand addr v hidle hr =>
    obtain ⟨_, _, _, _, heq⟩ := State.writeReg_of_idle hidle hr v
    exact .inr (.inr (.inl ⟨hidle, by rw [heq], by rw [heq]⟩))
  | store v hidle hm hloc => exact .inr (.inr (.inr ⟨_, _, _, v, hidle, rfl, hloc, hm, rfl⟩))

/-- Reading the answer of a transaction does not touch the RAMs. -/
@[simp] theorem State.respondRead_byteAt (s : State) (v : Word) (e : Bool) (m : Ram) (a : Nat) :
    (s.respondRead v e).byteAt m a = s.byteAt m a := rfl

theorem exec_abort (s : State) : exec .abort s = .next (s.abortJob.respond false) := rfl

end Sys2Proof.Machine

open Sys2Proof Sys2Proof.Machine

/-- Settles O20: an idle ABORT is nothing, and one of a running job draws that job's outputs and ends it. -/
theorem abortMakesTheOutputsDraws : Obligations.AbortMakesTheOutputsDraws := by
  refine ⟨fun s hidle => ?idle, fun s j hbusy => ⟨_, exec_abort s, ?bitcount, ?counters,
    fun m a ha => State.abortJob_byteAt hbusy ha, ?next, ?rest⟩⟩
  case idle =>
    rw [exec_abort, State.abortJob_of_idle hidle]
    rfl
  all_goals rw [State.abortJob_of_busy hbusy]
  case bitcount => cases j <;> rfl
  case counters => cases j <;> rfl
  case next =>
    rw [State.respond_epochs, State.endAborted_epochs, DrawEpochs.advance_next, State.drawOutputs_epochs_next]
  case rest => cases j <;> rfl

/-- Settles O35: an effect that changes a byte is a write to its word or an ABORT that draws its RAM. -/
theorem instructionsLeaveTheOtherBytes : Obligations.InstructionsLeaveTheOtherBytes := by
  intro i s t m a hexec ha hword habort
  obtain ⟨u, v, e, hu, rfl⟩ := exists_effect_of_exec hexec
  rw [State.respondRead_byteAt]
  rcases hu.data_cases with hsame | ⟨hi, hbusy, rfl⟩ | ⟨-, hmem, hepochs⟩ | ⟨m', b, addr, v', -, rfl, hloc, hm, rfl⟩
  · exact hsame.byteAt m a
  · cases hengine : s.engine with
    | idle => exact absurd hengine hbusy
    | busy j => rw [State.abortJob_byteAt hengine ha, habort j hengine hi, if_neg Bool.false_ne_true]
  · exact State.byteAt_of_get (by rw [hmem]) (by rw [hepochs])
  · obtain ⟨bs, heq, hlen, -⟩ := s.writeRam_eq_storeBytes hm b v'
    have hout := hword 4 addr v' m' b rfl hloc
    rw [heq, State.byteAt_storeBytes_outside _ (by omega)]

/-- Settles O36: while a job runs an effect keeps the data and the engine, or is the ABORT of the job, whose outputs are
not in sample RAM. -/
theorem runningJobsAreNotDisturbed : Obligations.RunningJobsAreNotDisturbed := by
  intro i s t j hbusy hexec
  obtain ⟨u, v, e, hu, rfl⟩ := exists_effect_of_exec hexec
  rcases hu.data_cases with hsame | ⟨hi, -, rfl⟩ | ⟨hidle, -⟩ | ⟨_, _, _, _, hidle, -⟩
  · exact ⟨hsame.sr, hsame.thresh, hsame.nsamp, hsame.capUnits, fun a _ => hsame.byteAt _ a,
      .inl ⟨(hsame.engine (by simp [hbusy])).trans hbusy, hsame.bitcount, hsame.counters, hsame.byteAt⟩⟩
  · refine ⟨?_, ?_, ?_, ?_, fun a ha => ?_, .inr ⟨?_, ?_, ?_, hi⟩⟩
    case refine_5 =>
      rw [State.respondRead_byteAt, State.abortJob_byteAt hbusy ha]
      cases j <;> rfl
    all_goals rw [State.abortJob_of_busy hbusy]; cases j <;> rfl
  · simp [hbusy] at hidle
  · simp [hbusy] at hidle

end

section
/-! PROOFS. The invariant of the machine, part by part, and that every event keeps it: what O40 and O41 rest on. -/

namespace Sys2Proof.Machine

/-! ## The parts of the invariant -/

theorem State.legal_iff (s : State) : s.legal = true ↔
    s.memLegal = true ∧ s.errorLegal = true ∧ s.jobLegal = true ∧ s.drawsFresh = true := by
  simp [State.legal, and_assoc]

theorem State.memLegal_iff (s : State) :
    s.memLegal = true ↔ Memory.wf s.mem = true ∧ ∀ c ∈ s.mem, s.stores c.1 = true := by
  simp [State.memLegal]

/-- ERRCODE is 0 exactly while ERR is 0, and at most 5 (60_exceptions.md R401). -/
def Status.codeLegal (st : Status) : Prop := (st.err = false ↔ st.errcode = 0#4) ∧ st.errcode.toNat ≤ 5

theorem State.errorLegal_iff (s : State) : s.errorLegal = true ↔ s.status.codeLegal := by
  rw [State.errorLegal, Bool.and_eq_true, decide_eq_true_iff, decide_eq_true_iff]
  rfl

/-- The checks of a job that its acceptance has passed (43_commands.md R357). -/
def State.operandsLegal (s : State) (j : Job) : Prop :=
  (j.demodulates = true → 1000 ≤ s.sampleRate ∧ s.sampleCount ≤ s.sampleCap) ∧ (j = .frame → s.bitLength ≤ s.bitCap)

theorem State.jobLegal_of_idle {s : State} (h : s.engine = .idle) : s.jobLegal = true := by
  simp [State.jobLegal, h]

theorem State.jobLegal_of_busy {s : State} {j : Job} (h : s.engine = .busy j) :
    s.jobLegal = true ↔ s.status.done = false ∧ s.status.aborted = false ∧ s.operandsLegal j := by
  cases j <;> simp [State.jobLegal, State.operandsLegal, Job.demodulates, h, and_assoc]

theorem State.drawsFresh_iff (s : State) : s.drawsFresh = true ↔ ∀ m, s.epochs.of m < s.epochs.next := by
  refine ⟨fun h m => ?_, fun h => ?_⟩
  · simp only [State.drawsFresh, Bool.and_eq_true, decide_eq_true_eq] at h
    obtain ⟨⟨⟨hsample, hbit⟩, hframe⟩, hdesc⟩ := h
    cases m <;> assumption
  · simpa [State.drawsFresh, and_assoc] using ⟨h .sample, h .bit, h .frame, h .desc⟩

/-! ## Memory -/

theorem State.stores_of_backs {s : State} {m : Ram} {a : Nat} (h : s.backs m a = true)
    (hsample : m = .sample → a % 4 < 2) : s.stores a = true := by
  cases m with
  | sample => simp [State.stores, h, hsample rfl]
  | bit | frame | desc => simp [State.stores, h]

/-- Bytes stored where bytes exist. -/
theorem State.memLegal_storeBytes {s : State} {a : Nat} {bs : List Byte} (h : s.memLegal = true)
    (hstores : ∀ b, a ≤ b → b < a + bs.length → s.stores b = true) : (s.storeBytes a bs).memLegal = true := by
  obtain ⟨hwf, hall⟩ := s.memLegal_iff.1 h
  refine (State.memLegal_iff _).2 ⟨Memory.wf_setBytes a bs hwf, fun c hc => ?_⟩
  rcases Memory.mem_setBytes hc with ⟨hle, hlt⟩ | hc
  · exact hstores c.1 hle hlt
  · exact hall c hc

/-- A host write stores its bytes in the word it reaches. -/
theorem State.memLegal_writeRam {s : State} {addr : Addr} {m : Ram} {a : Nat} (h : s.memLegal = true)
    (hm : m.hostWritable = true) (hloc : s.locate 4 addr = some (.ram m a)) (v : Word) :
    (s.writeRam m a v).memLegal = true := by
  obtain ⟨-, halign, hbacked⟩ := State.locate_eq_some.1 hloc
  obtain ⟨rfl, hbacks⟩ := State.backed_ram hbacked
  obtain ⟨hbase, hend⟩ := State.backs_iff.1 hbacks
  obtain ⟨bs, heq, hlen, hsample⟩ := s.writeRam_eq_storeBytes hm addr.toNat v
  have hwords : (m.base + s.ramBytes m) % 4 = 0 := by
    cases m with
    | sample | bit => simp only [Ram.base, State.ramBytes]; omega
    | frame | desc => nomatch hm
  rw [heq]
  refine State.memLegal_storeBytes h fun b hle hlt => State.stores_of_backs (m := m)
    (State.backs_iff.2 ⟨by omega, by omega⟩) fun hm => ?_
  have := hsample hm
  omega

theorem State.memLegal_drawRam {s : State} (h : s.memLegal = true) (r : Ram) : (s.drawRam r).memLegal = true := by
  obtain ⟨hwf, hall⟩ := s.memLegal_iff.1 h
  exact (State.memLegal_iff _).2 ⟨Memory.wf_forget r hwf, fun c hc => hall c (Memory.mem_forget hc).1⟩

theorem State.memLegal_drawOutputs {s : State} (h : s.memLegal = true) (j : Job) :
    (s.drawOutputs j).memLegal = true := by
  have hframe : ∀ {t : State}, t.memLegal = true → t.drawFrameOutputs.memLegal = true := fun {t} ht =>
    State.memLegal_drawRam (State.memLegal_drawRam ht .frame) .desc
  have hdemod : s.drawDemodOutputs.memLegal = true := State.memLegal_drawRam h .bit
  cases j with
  | run => exact hframe hdemod
  | demod => exact hdemod
  | frame => exact hframe h

/-- No demodulator stage writes outside bit RAM (40_demodulator.md R215). -/
theorem State.memLegal_demodStage {s : State} (h : s.memLegal = true) (hsr : 1000 ≤ s.sampleRate)
    (hn : s.sampleCount ≤ s.sampleCap) : s.demodStage.memLegal = true := by
  have hle : s.demodBits.length ≤ s.sampleCount := s.samples_length ▸ demodulate_length_le hsr _ _
  have hlen := bitRamBytes_length s.demodBits
  have hdvd := s.sampleCap_dvd
  refine State.memLegal_storeBytes (a := Ram.bit.base) (bs := bitRamBytes s.demodBits) h fun b hge hlt => ?_
  refine State.stores_of_backs (m := .bit) (State.backs_iff.2 ⟨hge, ?_⟩) nofun
  rw [State.ramBytes_bit, State.bitCap]
  omega

/-- No frame stage writes outside descriptor and frame RAM (41_frame_extractor.md R258, 42_destuff_crc.md R318). -/
theorem State.memLegal_frameStage {s : State} (h : s.memLegal = true) (hn : s.bitLength ≤ s.bitCap) :
    s.frameStage.memLegal = true := by
  have hdescs : 8 * s.frameResult.descs.length ≤ s.sampleCap :=
    (extractFrames_descs_le _).trans (s.inputBits_length.trans_le hn)
  have hbytes : 8 * s.frameResult.bytes.length ≤ s.sampleCap :=
    (extractFrames_bytes_le _).trans (s.inputBits_length.trans_le hn)
  have hdvd := s.sampleCap_dvd
  have hstored : (s.storeFrames s.frameResult).memLegal = true := by
    refine State.memLegal_storeBytes (State.memLegal_storeBytes h fun b hge hlt => ?desc) fun b hge hlt => ?frame
    case desc =>
      refine State.stores_of_backs (m := .desc) (State.backs_iff.2 ⟨hge, ?_⟩) nofun
      rw [length_flatMap_of_length wordBytes_length, FrameResult.descWords_length] at hlt
      simp only [State.ramBytes, State.descCap]
      omega
    case frame =>
      refine State.stores_of_backs (m := .frame) (State.backs_iff.2 ⟨hge, ?_⟩) nofun
      rw [FrameResult.frameRamBytes_length] at hlt
      show b < Ram.frame.base + s.ramBytes .frame
      rw [State.ramBytes_frame, State.frameCap]
      omega
  rwa [State.memLegal, State.storeFrames, State.storeBytes_mem, State.storeBytes_mem, ← FrameResult.store_eq] at hstored

/-! ## The error code -/

theorem Status.codeLegal_record {st : Status} (h : st.codeLegal) (e : ErrorCode) : (st.record e).codeLegal := by
  rcases st.record_cases e with ⟨-, heq⟩ | ⟨-, heq⟩ <;> rw [heq]
  · exact h
  · cases e <;> simp [Status.codeLegal, ErrorCode.code]

theorem Status.codeLegal_w1c {st : Status} (h : st.codeLegal) (v : Word) : (st.w1c v).codeLegal := by
  rw [Status.w1c_eq_ite]
  by_cases herr : v.getLsbD 2 = true
  · simp [Status.codeLegal, herr]
  · simpa only [Status.codeLegal, herr, Bool.false_eq_true, if_false] using h

theorem FlagChange.codeLegal {s : State} {i : Instr} {e : EngineState} {st : Status} (h : FlagChange s i e st)
    (hs : s.status.codeLegal) : st.codeLegal := by
  cases h with
  | kept | accepted | aborted | ignored => exact hs
  | recorded e => exact Status.codeLegal_record hs e
  | cleared v => exact Status.codeLegal_w1c hs v

/-! ## The running job -/

theorem EngineState.eq_idle_or_busy (e : EngineState) : e = .idle ∨ ∃ j, e = .busy j := by
  cases e <;> simp

/-- A running job asks of the flags only that DONE and ABORTED stay 0. -/
theorem State.jobLegal_setStatus {s : State} {st : Status} (h : s.jobLegal = true)
    (hdone : st.done = true → s.status.done = true) (haborted : st.aborted = true → s.status.aborted = true) :
    ({ s with status := st } : State).jobLegal = true := by
  rcases s.engine.eq_idle_or_busy with hidle | ⟨j, hbusy⟩
  · exact State.jobLegal_of_idle hidle
  · obtain ⟨hd, ha, hops⟩ := (State.jobLegal_of_busy hbusy).1 h
    refine (State.jobLegal_of_busy (s := { s with status := st }) hbusy).2 ⟨?_, ?_, hops⟩
    · exact Bool.eq_false_iff.2 fun hset => Bool.eq_false_iff.1 hd (hdone hset)
    · exact Bool.eq_false_iff.2 fun hset => Bool.eq_false_iff.1 ha (haborted hset)

theorem State.jobLegal_raiseError {s : State} (h : s.jobLegal = true) (e : ErrorCode) :
    (s.raiseError e).jobLegal = true :=
  State.jobLegal_setStatus h (by simp) (by simp)

/-- An accepted job has passed its checks (43_commands.md R357). -/
theorem State.jobLegal_startJob {s : State} (h : s.jobLegal = true) (j : Job) : (s.startJob j).jobLegal = true := by
  rcases s.startJob_cases j with ⟨e, -, heq⟩ | ⟨hpassed, heq⟩ <;> rw [heq]
  · exact State.jobLegal_raiseError h e
  · obtain ⟨-, hops⟩ := (s.startError_none_iff j).1 hpassed
    exact (State.jobLegal_of_busy (s := s.acceptJob j) rfl).2 ⟨rfl, rfl, hops⟩

theorem State.abortJob_idle (s : State) : s.abortJob.engine = .idle := by
  rcases s.abortJob_cases with ⟨hidle, heq⟩ | ⟨j, -, heq⟩ <;> rw [heq]
  · exact hidle
  · rfl

theorem Effect.jobLegal {s u : State} {i : Instr} (h : Effect s i u) (hs : s.jobLegal = true) : u.jobLegal = true := by
  cases h with
  | nothing | draw | enableIrq => exact hs
  | start j => exact State.jobLegal_startJob hs j
  | abort => exact State.jobLegal_of_idle s.abortJob_idle
  | illegal => exact State.jobLegal_raiseError hs _
  | clear v =>
    exact State.jobLegal_setStatus hs (fun h => (Bool.and_eq_true_iff.1 h).1) fun h => (Bool.and_eq_true_iff.1 h).1
  | ignored => exact State.jobLegal_setStatus hs id id
  | operand addr v hidle hr =>
    obtain ⟨_, _, _, _, heq⟩ := State.writeReg_of_idle hidle hr v
    exact State.jobLegal_of_idle (by rw [heq, hidle])
  | store v hidle hm hloc =>
    obtain ⟨_, heq, -⟩ := s.writeRam_eq_storeBytes hm _ v
    exact State.jobLegal_of_idle (by rw [heq, State.storeBytes_engine, hidle])

/-! ## The draws -/

/-- Renewed draws stand at most at the next number, so they are fresh once it is used up. -/
theorem DrawEpochs.renew_of_le {e : DrawEpochs} (h : ∀ m, e.of m ≤ e.next) (r m : Ram) :
    (e.renew r).of m ≤ (e.renew r).next := by
  rw [DrawEpochs.renew_next]
  by_cases hm : m = r
  · rw [hm, DrawEpochs.renew_of_self]
  · rw [DrawEpochs.renew_of_ne _ hm]
    exact h m

theorem State.drawOutputs_epochs_of_le {s : State} (h : ∀ m, s.epochs.of m ≤ s.epochs.next) (j : Job) (m : Ram) :
    (s.drawOutputs j).epochs.of m ≤ (s.drawOutputs j).epochs.next := by
  have hframe : ∀ {e : DrawEpochs}, (∀ m, e.of m ≤ e.next) →
      ((e.renew .frame).renew .desc).of m ≤ ((e.renew .frame).renew .desc).next := fun he =>
    DrawEpochs.renew_of_le (DrawEpochs.renew_of_le he .frame) .desc m
  have hdemod := DrawEpochs.renew_of_le h .bit
  cases j with
  | run => exact hframe hdemod
  | demod => exact hdemod m
  | frame => exact hframe h

theorem State.drawsFresh_abortJob {s : State} (h : s.drawsFresh = true) : s.abortJob.drawsFresh = true := by
  rcases s.abortJob_cases with ⟨-, heq⟩ | ⟨j, -, heq⟩ <;> rw [heq]
  · exact h
  · refine (State.drawsFresh_iff _).2 fun m => ?_
    have hle := State.drawOutputs_epochs_of_le (fun m => ((s.drawsFresh_iff.1 h) m).le) j m
    rw [State.endAborted_epochs, DrawEpochs.advance_of, DrawEpochs.advance_next]
    omega

/-! ## The effects and the invariant -/

theorem Effect.memLegal {s u : State} {i : Instr} (h : Effect s i u) (hs : s.memLegal = true) : u.memLegal = true := by
  cases h with
  | nothing | draw | illegal | clear | enableIrq | ignored => exact hs
  | start j => rcases s.startJob_cases j with ⟨_, -, heq⟩ | ⟨-, heq⟩ <;> rwa [heq]
  | abort =>
    rcases s.abortJob_cases with ⟨-, heq⟩ | ⟨j, -, heq⟩ <;> rw [heq]
    · exact hs
    · exact State.memLegal_drawOutputs hs j
  | operand addr v hidle hr =>
    obtain ⟨_, _, _, _, heq⟩ := State.writeReg_of_idle hidle hr v
    rwa [heq]
  | store v hidle hm hloc => exact State.memLegal_writeRam hs hm hloc v

theorem Effect.drawsFresh {s u : State} {i : Instr} (h : Effect s i u) (hs : s.drawsFresh = true) :
    u.drawsFresh = true := by
  cases h with
  | nothing | illegal | clear | enableIrq | ignored => exact hs
  | draw =>
    refine (State.drawsFresh_iff _).2 fun m => ?_
    have hlt := s.drawsFresh_iff.1 hs m
    rw [DrawEpochs.advance_of, DrawEpochs.advance_next]
    omega
  | start j => rcases s.startJob_cases j with ⟨_, -, heq⟩ | ⟨-, heq⟩ <;> rwa [heq]
  | abort => exact State.drawsFresh_abortJob hs
  | operand addr v hidle hr =>
    obtain ⟨_, _, _, _, heq⟩ := State.writeReg_of_idle hidle hr v
    rwa [heq]
  | store v hidle hm hloc =>
    obtain ⟨_, heq, -⟩ := s.writeRam_eq_storeBytes hm _ v
    rwa [heq]

theorem Effect.legal {s u : State} {i : Instr} (h : Effect s i u) (hs : s.legal = true) : u.legal = true := by
  obtain ⟨hmem, herror, hjob, hdraws⟩ := s.legal_iff.1 hs
  exact u.legal_iff.2 ⟨h.memLegal hmem, u.errorLegal_iff.2 (h.flagChange.codeLegal (s.errorLegal_iff.1 herror)),
    h.jobLegal hjob, h.drawsFresh hdraws⟩

/-! ## Completion and reset -/

theorem State.memLegal_runStages {s : State} {j : Job} (h : s.memLegal = true) (hops : s.operandsLegal j) :
    (s.runStages j).memLegal = true := by
  obtain ⟨hdemod, hframe⟩ := hops
  cases j with
  | demod => exact State.memLegal_demodStage h (hdemod rfl).1 (hdemod rfl).2
  | frame => exact State.memLegal_frameStage h (hframe rfl)
  | run =>
    obtain ⟨hsr, hn⟩ := hdemod rfl
    refine State.memLegal_frameStage (State.memLegal_demodStage h hsr hn) ?_
    rw [State.demodStage_bitLength hsr hn]
    exact (s.samples_length ▸ demodulate_length_le hsr _ _ : s.demodBits.length ≤ s.sampleCount).trans hn

/-- A completed job has written inside its RAMs. -/
theorem State.legal_complete {s : State} {j : Job} (h : s.legal = true) (hbusy : s.engine = .busy j) :
    (s.complete j).legal = true := by
  obtain ⟨hmem, herror, hjob, hdraws⟩ := s.legal_iff.1 h
  obtain ⟨-, -, hops⟩ := (State.jobLegal_of_busy hbusy).1 hjob
  have hcode : (s.complete j).errorLegal = s.errorLegal := by cases j <;> rfl
  have hfresh : (s.complete j).drawsFresh = s.drawsFresh := by cases j <;> rfl
  exact (State.legal_iff _).2 ⟨State.memLegal_runStages hmem hops, hcode.trans herror, State.jobLegal_of_idle rfl,
    hfresh.trans hdraws⟩

theorem State.legal_engineTurn {s : State} (h : s.legal = true) : s.engineTurn.legal = true := by
  rcases s.engineTurn_cases with ⟨-, heq⟩ | ⟨j, hbusy, heq⟩ <;> rw [heq]
  · exact h
  · exact State.legal_complete h hbusy

theorem State.legal_resetBlock (s : State) : s.resetBlock.legal = true := by
  refine (State.legal_iff _).2 ⟨rfl, rfl, rfl, (State.drawsFresh_iff _).2 fun m => ?_⟩
  rw [State.resetBlock_epochs, DrawEpochs.renewAll_of, DrawEpochs.renewAll_next]
  exact Nat.lt_succ_self _

theorem step_keeps_legal {s t : State} (hs : s.legal = true) (hstep : step s = .next t) : t.legal = true := by
  have htake : s.takeEvent.legal = true := hs
  cases hev : s.nextEvent with
  | host tr =>
    rw [step_of_host hev] at hstep
    obtain ⟨u, v, e, hu, rfl⟩ := exists_effect_of_exec hstep
    exact hu.legal htake
  | engine =>
    rw [step_of_engine hev, Host.Outcome.next.injEq] at hstep
    exact hstep ▸ State.legal_engineTurn htake
  | reset =>
    rw [step_of_reset hev, Host.Outcome.next.injEq] at hstep
    exact hstep ▸ s.takeEvent.legal_resetBlock

end Sys2Proof.Machine

open Sys2Proof Sys2Proof.Machine

/-- Settles O40: each effect of a transaction, each completion and the reset keep the four parts of the invariant. -/
theorem everyStepKeepsTheStateLegal : Obligations.EveryStepKeepsTheStateLegal :=
  fun _ _ hs hstep => step_keeps_legal hs hstep

/-- Settles O41: at reset no byte is stored, ERR is 0, the engine idle and draw 1 the next one. -/
theorem resetStateIsLegal : Obligations.ResetStateIsLegal := by
  refine State.reset.legal_iff.2 ⟨rfl, rfl, rfl, (State.drawsFresh_iff _).2 fun m => ?_⟩
  cases m <;> exact Nat.zero_lt_one

end

section
/-! PROOFS. The levels of the windows, runs of whole windows, and the rounding of run lengths: what O44 and O46 to O48
rest on. -/

namespace Sys2Proof.Machine

/-! ## A value for each window, at each of its indices -/

/-- A value for each window of a sequence, once for each of its elements. -/
def spread {α β : Type} (f : List α → β) (ws : List (List α)) : List β :=
  ws.flatMap fun w => List.replicate w.length (f w)

theorem spread_cons {α β : Type} (f : List α → β) (w : List α) (ws : List (List α)) :
    spread f (w :: ws) = List.replicate w.length (f w) ++ spread f ws :=
  List.flatMap_cons

theorem levels_eq_spread (t unit : Nat) (c : List Int) :
    levels t unit c = spread (fun w => levelOf t w.sum) (chunks unit c) := rfl

/-- Index `i` lies in window `i div size`. -/
theorem spread_chunksUpTo_getD {α β : Type} (f : List α → β) (d : β) {size n : Nat} {xs : List α} (hs : 0 < size)
    (hn : xs.length ≤ n) {i : Nat} (hi : i < xs.length) :
    (spread f (chunksUpTo size n xs)).getD i d = f ((xs.drop (i / size * size)).take size) := by
  induction n generalizing xs i with
  | zero => omega
  | succ n ih =>
    cases xs with
    | nil => nomatch hi
    | cons x xs =>
      rw [chunksUpTo, spread_cons]
      generalize x :: xs = ys at *
      have hwindow : (ys.take size).length = min size ys.length := List.length_take
      rcases Nat.lt_or_ge i size with hlt | hge
      · rw [Nat.div_eq_of_lt hlt, Nat.zero_mul, List.drop_zero,
          List.getD_append _ _ _ _ (by rw [List.length_replicate, hwindow]; omega), List.getD_replicate]
        omega
      · obtain ⟨k, rfl⟩ := Nat.exists_eq_add_of_le hge
        have hfull : (ys.take size).length = size := by omega
        have hrest : (ys.drop size).length = ys.length - size := List.length_drop
        rw [List.getD_append_right _ _ _ _ (by rw [List.length_replicate]; omega), List.length_replicate, hfull,
          Nat.add_sub_cancel_left, ih (by omega) (by omega), List.drop_drop, Nat.add_div_left k hs, Nat.succ_mul,
          Nat.add_comm]

theorem levels_getD (t : Nat) {unit : Nat} (hu : 0 < unit) {c : List Int} {i : Nat} (hi : i < c.length) :
    (levels t unit c).getD i 0#8 = levelOf t ((c.drop (i / unit * unit)).take unit).sum :=
  spread_chunksUpTo_getD _ _ hu (Nat.le_refl _) hi

/-! ## Runs of whole windows -/

/-- A run that is a positive whole number of windows long. -/
def WholeWindows (unit : Nat) (r : Byte × Nat) : Prop := 0 < r.2 ∧ r.2 % unit = 0

/-- Only the last window can be shorter than the others. -/
theorem length_take_or_drop_eq_nil {α : Type} (size : Nat) (xs : List α) :
    (xs.take size).length = size ∨ xs.drop size = [] := by
  rcases Nat.le_total size xs.length with h | h
  · exact .inl (List.length_take_of_le h)
  · exact .inr (List.drop_eq_nil_of_le h)

@[simp] theorem chunksUpTo_nil {α : Type} (size n : Nat) : chunksUpTo size n ([] : List α) = [] := by
  cases n <;> rfl

/-- A run in progress that is whole windows long stays so at the end of each window but the last, and no run ends in the
last one. -/
theorem wholeWindows_of_mem_runsFrom {t unit n : Nat} {c : List Int} {cur : Byte} {len : Nat} (hu : 0 < unit)
    (hlen : WholeWindows unit (cur, len)) :
    ∀ r ∈ runsFrom cur len (spread (fun w => levelOf t w.sum) (chunksUpTo unit n c)), WholeWindows unit r := by
  induction n generalizing c cur len with
  | zero => simp [chunksUpTo, spread, runsFrom]
  | succ n ih =>
    cases c with
    | nil => simp [spread, runsFrom]
    | cons x xs =>
      rw [chunksUpTo, spread_cons]
      have hpos : 0 < ((x :: xs).take unit).length := by simp [hu]
      generalize hl : levelOf t ((x :: xs).take unit).sum = l
      by_cases hcur : cur = l
      · subst hcur
        rw [runsFrom_replicate_append]
        rcases length_take_or_drop_eq_nil unit (x :: xs) with hfull | hlast
        · refine ih ⟨by omega, ?_⟩
          have := hlen.2
          rw [hfull]
          simpa using this
        · rw [hlast]
          simp [spread, runsFrom]
      · rw [runsFrom_replicate_append_of_ne hcur hpos]
        refine List.forall_mem_cons.2 ⟨hlen, ?_⟩
        rcases length_take_or_drop_eq_nil unit (x :: xs) with hfull | hlast
        · exact ih (by rw [hfull]; exact ⟨hu, Nat.mod_self unit⟩)
        · rw [hlast]
          simp [spread, runsFrom]

theorem wholeWindows_of_mem_emittedRuns {t unit : Nat} {c : List Int} (hu : 0 < unit) :
    ∀ r ∈ emittedRuns (levels t unit c), WholeWindows unit r := by
  rw [levels_eq_spread, chunks]
  cases c with
  | nil => simp [spread, emittedRuns]
  | cons x xs =>
    rw [List.length_cons, chunksUpTo, spread_cons, emittedRuns_replicate_append _ (by simp [hu])]
    rcases length_take_or_drop_eq_nil unit (x :: xs) with hfull | hlast
    · rw [hfull]
      exact wholeWindows_of_mem_runsFrom hu ⟨hu, Nat.mod_self unit⟩
    · rw [hlast]
      simp [spread, runsFrom]

/-! ## Rounding -/

/-- The three cases of `rhe`, with `n = d * q + r` (00_scope.md R10). -/
theorem rhe_cases (n d : Nat) :
    (d < 2 * (n % d) ∧ rhe n d = n / d + 1) ∨ (2 * (n % d) < d ∧ rhe n d = n / d) ∨
    (2 * (n % d) = d ∧ rhe n d = n / d + n / d % 2) := by
  unfold rhe
  split_ifs <;> omega

/-- Twice the distance of `n` from `d * k`, for a `k` behind the quotient by `e`. -/
theorem two_mul_sub_eq (n d e : Nat) :
    2 * (n : Int) - 2 * d * ((n / d + e : Nat) : Int) = 2 * (n % d : Nat) - 2 * (d * e : Nat) := by
  have hdiv : (d : Int) * (n / d : Nat) + (n % d : Nat) = n := by exact_mod_cast Nat.div_add_mod n d
  rw [← hdiv]
  push_cast
  ring

end Sys2Proof.Machine

open Sys2Proof Sys2Proof.Machine

/-- Settles O44: one level for each sample, that of the window it lies in. -/
theorem levelsAreTheLevelsOfTheirWindows : Obligations.LevelsAreTheLevelsOfTheirWindows :=
  fun t _ c hu => ⟨levels_length t hu c, fun _ hi => levels_getD t hu hi⟩

/-- Settles O46: a run can end only where a window does. -/
theorem emittedRunsAreWholeWindows : Obligations.EmittedRunsAreWholeWindows :=
  fun _ _ _ hu => wholeWindows_of_mem_emittedRuns hu

/-- Settles O47: with remainder `r`, the quotient is `2r` off and the next number `2d - 2r`; a tie takes the even
one. -/
theorem rheRoundsToNearestTiesToEven : Obligations.RheRoundsToNearestTiesToEven := by
  intro n d hd
  have hlt : n % d < d := Nat.mod_lt n hd
  have hdown := two_mul_sub_eq n d 0
  have hup := two_mul_sub_eq n d 1
  rw [abs_le, abs_eq (Int.natCast_nonneg d)]
  rcases rhe_cases n d with ⟨hr, heq⟩ | ⟨hr, heq⟩ | ⟨hr, heq⟩
  · rw [heq, hup]
    omega
  · rw [heq, ← Nat.add_zero (n / d), hdown]
    omega
  · rcases Nat.mod_two_eq_zero_or_one (n / d) with heven | hodd
    · rw [heq, heven, hdown]
      omega
    · rw [heq, hodd, hup]
      omega

/-- Settles O48: a run gives at most as many bits as it has samples. -/
theorem demodulatedBitsFitBitRam : Obligations.DemodulatedBitsFitBitRam :=
  fun _ t s hsr => demodulate_length_le hsr t s

end

section
/-! PROOFS. The descriptors of a bit sequence in order, and a descriptor's words: what O53 to O55 rest on. -/

namespace Sys2Proof.Machine

/-! ## Counting the classes -/

/-- Every descriptor has exactly one class. -/
theorem sum_countClass (ds : List Descriptor) :
    countClass .accept ds + countClass .rejShort ds + countClass .rejInactive ds + countClass .dropLen ds
      + countClass .dropAddr ds = ds.length := by
  induction ds with
  | nil => rfl
  | cons d ds ih =>
    simp only [countClass, List.countP_cons, List.length_cons] at ih ⊢
    cases d.cls <;> simp <;> omega

theorem countGood_le_accept (ds : List Descriptor) : countGood ds ≤ countClass .accept ds :=
  List.countP_mono_left fun _ _ hgood => (Bool.and_eq_true_iff.1 hgood).1

/-! ## One candidate -/

/-- The place of a candidate is in its descriptor, whatever becomes of it (41_frame_extractor.md R257). -/
theorem processCandidate_place (c : Candidate) (off : Nat) :
    (processCandidate c off).1.candStart = c.1 ∧ (processCandidate c off).1.candLen = c.2.length ∧
    (processCandidate c off).1.byteOff = off := by
  unfold processCandidate
  split
  · exact ⟨rfl, rfl, rfl⟩
  split
  · exact ⟨rfl, rfl, rfl⟩
  · unfold fieldSteps describe
    split <;> exact ⟨rfl, rfl, rfl⟩

/-! ## The candidates in order -/

theorem processAll_nbytes (off : Nat) (cs : List Candidate) :
    (processAll off cs).map (fun r => r.1.nbytes) = (processAll off cs).map fun r => r.2.length := by
  induction cs generalizing off with
  | nil => rfl
  | cons c cs ih => rw [processAll, List.map_cons, List.map_cons, ih, processCandidate_nbytes]

theorem processAll_candLen (off : Nat) (cs : List Candidate) :
    (processAll off cs).map (fun r => r.1.candLen) = cs.map fun c => c.2.length := by
  induction cs generalizing off with
  | nil => rfl
  | cons c cs ih => rw [processAll, List.map_cons, List.map_cons, ih, (processCandidate_place c off).2.1]

/-- Pieces put together hold each piece behind those before it. -/
theorem take_drop_flatMap_snd {α β : Type} {ps : List (α × List β)} {n : Nat} {p : α × List β} (h : ps[n]? = some p) :
    ((ps.flatMap Prod.snd).drop ((ps.take n).map fun q => q.2.length).sum).take p.2.length = p.2 := by
  induction ps generalizing n with
  | nil => nomatch h
  | cons q ps ih =>
    cases n with
    | zero =>
      obtain rfl : q = p := by simpa using h
      simp
    | succ n =>
      rw [List.flatMap_cons, List.take_succ_cons, List.map_cons, List.sum_cons, List.drop_length_add_append]
      exact ih h

/-! ## The frames of a bit sequence -/

/-- The results of the candidates of a bit sequence, in order. -/
def candidateResults (b : Bits) : List (Descriptor × List Byte) := processAll 0 (splitFlags b).1

theorem extractFrames_descs (b : Bits) : (extractFrames b).descs = (candidateResults b).map Prod.fst := rfl
theorem extractFrames_bytes (b : Bits) : (extractFrames b).bytes = (candidateResults b).flatMap Prod.snd := rfl

theorem candidateResults_nbytes (b : Bits) :
    (candidateResults b).map (fun r => r.1.nbytes) = (candidateResults b).map fun r => r.2.length :=
  processAll_nbytes 0 _

/-- The frame RAM write index of descriptor `n`: the NBYTES before it (41_frame_extractor.md R257). -/
def writeIndex (b : Bits) (n : Nat) : Nat := (((extractFrames b).descs.take n).map Descriptor.nbytes).sum

theorem writeIndex_eq (b : Bits) (n : Nat) :
    writeIndex b n = (((candidateResults b).take n).map fun r => r.1.nbytes).sum := by
  rw [writeIndex, extractFrames_descs, ← List.map_take, List.map_map]
  rfl

/-- The lengths of the candidates, in the descriptors. -/
theorem take_descs_candLen (b : Bits) (n : Nat) :
    ((extractFrames b).descs.take n).map (fun d => d.candLen + 8)
      = ((splitFlags b).1.take n).map fun c => c.2.length + 8 := by
  have hlens := congrArg (fun l => (l.take n).map (· + 8)) (processAll_candLen 0 (splitFlags b).1)
  simpa only [extractFrames_descs, candidateResults, ← List.map_take, List.map_map, Function.comp_def] using hlens

/-- Candidate `n` has descriptor `n`, made at the write index (41_frame_extractor.md R259). -/
theorem candidateResults_getElem? (b : Bits) (n : Nat) :
    (candidateResults b)[n]? = (splitFlags b).1[n]?.map fun c => processCandidate c (writeIndex b n) := by
  rw [candidateResults, processAll_getElem?, writeIndex_eq, Nat.zero_add]
  rfl

theorem extractFrames_descs_getElem? (b : Bits) (n : Nat) : (extractFrames b).descs[n]?
    = (splitFlags b).1[n]?.map fun c => (processCandidate c (writeIndex b n)).1 := by
  rw [extractFrames_descs, List.getElem?_map, candidateResults_getElem?, Option.map_map]
  rfl

theorem extractFrames_bytes_length (b : Bits) :
    (extractFrames b).bytes.length = ((extractFrames b).descs.map Descriptor.nbytes).sum := by
  rw [extractFrames_bytes, List.length_flatMap, ← candidateResults_nbytes, extractFrames_descs, List.map_map]
  rfl

/-- The bytes of candidate `n` stand at its write index. -/
theorem take_drop_extractFrames_bytes {b : Bits} {n : Nat} {c : Candidate} (h : (splitFlags b).1[n]? = some c) :
    ((extractFrames b).bytes.drop (writeIndex b n)).take (processCandidate c (writeIndex b n)).2.length
      = (processCandidate c (writeIndex b n)).2 := by
  have hresult : (candidateResults b)[n]? = some (processCandidate c (writeIndex b n)) := by
    rw [candidateResults_getElem?, h, Option.map_some]
  have hindex : writeIndex b n = (((candidateResults b).take n).map fun r => r.2.length).sum := by
    rw [writeIndex_eq, List.map_take, List.map_take, candidateResults_nbytes]
  have hpiece := take_drop_flatMap_snd hresult
  rwa [← hindex] at hpiece

theorem extractFrames_length_eq (b : Bits) :
    (extractFrames b).tail + ((extractFrames b).descs.map fun d => d.candLen + 8).sum = b.length := by
  have hlens := take_descs_candLen b (splitFlags b).1.length
  rw [← extractFrames_descs_length, List.take_length, extractFrames_descs_length, List.take_length] at hlens
  rw [hlens, Nat.add_comm]
  exact (splitFlags_flagCut b).length_eq

end Sys2Proof.Machine

open Sys2Proof Sys2Proof.Machine

/-- Settles O53: descriptor `n` is made of candidate `n` at the write index, and the candidates are those of the cut. -/
theorem descriptorsAddUp : Obligations.DescriptorsAddUp := by
  intro b
  refine ⟨sum_countClass _, countGood_le_accept _, extractFrames_bytes_length b, extractFrames_length_eq b,
    fun n d hd => ?places, rfl, extractFrames_descs_length b, fun n c hc => ?results⟩
  case places =>
    rw [Option.mem_def, extractFrames_descs_getElem?, Option.map_eq_some_iff] at hd
    obtain ⟨c, hc, rfl⟩ := hd
    obtain ⟨hstart, -, hoff⟩ := processCandidate_place c (writeIndex b n)
    obtain ⟨hlt, hget⟩ := List.getElem?_eq_some_iff.1 hc
    have hcut := (splitFlags_flagCut b).start_eq n hlt
    rw [List.getD_eq_getElem _ _ hlt, hget, Nat.zero_add] at hcut
    exact ⟨hoff, by rw [hstart, hcut, take_descs_candLen]⟩
  case results =>
    exact ⟨writeIndex b n, (processCandidate c (writeIndex b n)).1, (processCandidate c (writeIndex b n)).2, rfl, rfl,
      by rw [extractFrames_descs_getElem?, hc, Option.map_some], processCandidate_nbytes c _,
      take_drop_extractFrames_bytes hc⟩

/-- Settles O54: every descriptor has a flag to itself, and every byte eight bits of a candidate and its flag. -/
theorem framesFitTheirRams : Obligations.FramesFitTheirRams :=
  fun b => ⟨extractFrames_descs_le b, extractFrames_bytes_le b⟩

/-- Settles O55: words 0 and 6 are their fields one behind the other. -/
theorem descriptorWordsHoldTheFields : Obligations.DescriptorWordsHoldTheFields := by
  intro d hresid
  refine ⟨0#25 ++ BitVec.ofNat 3 d.resid ++ BitVec.ofBool d.crcOk ++ d.cls.code, d.crcRx ++ d.crcCalc, rfl, ?_, ?_, ?_,
    ?_, BitVec.extractLsb'_append_eq_right, BitVec.extractLsb'_append_eq_left⟩
  · rw [BitVec.extractLsb'_append_eq_right]
    cases d.cls <;> rfl
  · rw [BitVec.getLsbD_append, BitVec.getLsbD_append]
    simp
  · rw [BitVec.extractLsb'_append_eq_of_le (by decide), BitVec.extractLsb'_append_eq_of_le (by decide)]
    rw [BitVec.extractLsb'_append_eq_right, BitVec.toNat_ofNat, Nat.mod_eq_of_lt hresid]
  · rw [BitVec.extractLsb'_append_eq_of_le (by decide), BitVec.extractLsb'_append_eq_of_le (by decide)]
    exact BitVec.extractLsb'_append_eq_left

end

section
/-! PROOFS. Destuffing as a stream, and zero-insertion undone: what O56 and O57 rest on. -/

namespace Sys2Proof.Machine

/-! ## The stream over bits without a STUFF pattern -/

/-- The number of ones the stream has just counted behind the bits `u`, from `ones` before them. -/
def onesAfter : Nat → Bits → Nat
  | ones, [] => ones
  | ones, true :: u => onesAfter (ones + 1) u
  | _, false :: u => onesAfter 0 u

theorem onesAfter_append (ones : Nat) (u v : Bits) : onesAfter ones (u ++ v) = onesAfter (onesAfter ones u) v := by
  induction u generalizing ones with
  | nil => rfl
  | cons b u ih => cases b <;> exact ih _

theorem onesAfter_replicate (ones n : Nat) : onesAfter ones (List.replicate n true) = ones + n := by
  induction n generalizing ones with
  | zero => rfl
  | succ n ih => exact (ih (ones + 1)).trans (Nat.succ_add_eq_add_succ ones n)

/-- STUFF stands nowhere in the sequence. -/
def StuffFree (x : Bits) : Prop := ∀ j, ¬ standsAt stuffPattern x j

theorem StuffFree.of_append {u v : Bits} (h : StuffFree (u ++ v)) : StuffFree v := fun j hj =>
  h (u.length + j) (by rwa [standsAt, List.drop_length_add_append])

/-- A zero behind five ones or more completes a STUFF pattern. -/
theorem lt_five_of_stuffFree {ones : Nat} {u : Bits} (h : StuffFree (List.replicate ones true ++ false :: u)) :
    ones < 5 := by
  by_contra hge
  obtain ⟨k, rfl⟩ := Nat.exists_eq_add_of_le' (Nat.le_of_not_lt hge)
  rw [← List.replicate_append_replicate, List.append_assoc] at h
  exact h.of_append 0 rfl

/-- Where no STUFF pattern stands, the ones before counted in, the stream drops nothing. -/
theorem destuffStream_append {ones : Nat} {u : Bits} (h : StuffFree (List.replicate ones true ++ u)) (v : Bits) :
    destuffStream ones (u ++ v) = u ++ destuffStream (onesAfter ones u) v := by
  induction u generalizing ones with
  | nil => rfl
  | cons b u ih =>
    cases b with
    | true =>
      have hrest : StuffFree (List.replicate (ones + 1) true ++ u) := by
        rwa [List.replicate_succ', List.append_assoc]
      rw [List.cons_append, destuffStream, ih hrest]
      rfl
    | false =>
      have hfew : ¬ 5 ≤ ones := Nat.not_le.2 (lt_five_of_stuffFree h)
      have hrest : StuffFree u := (List.append_cons _ false u ▸ h).of_append
      rw [List.cons_append, destuffStream, if_neg hfew, ih (ones := 0) hrest]
      rfl

theorem destuffStream_of_stuffFree {u : Bits} (h : StuffFree u) : destuffStream 0 u = u := by
  have hstream := destuffStream_append (ones := 0) h []
  rwa [List.append_nil, destuffStream, List.append_nil] at hstream

/-! ## The first STUFF pattern -/

/-- The bits up to the five ones of the first STUFF pattern hold none. -/
theorem stuffFree_take {x : Bits} {p : Nat} (hfirst : ∀ k < p, ¬ standsAt stuffPattern x k) :
    StuffFree (x.take (p + 5)) := by
  intro j hj
  have hlen := congrArg List.length hj
  simp only [List.length_take, List.length_drop, stuffPattern_length] at hlen
  exact hfirst j (by omega) ((standsAt_take_iff (by rw [stuffPattern_length]; omega)).1 hj)

/-- The stream drops the zero of the first STUFF pattern and starts anew behind it. -/
theorem destuffStream_of_findPattern {x : Bits} {p : Nat} (h : findPattern stuffPattern x = some p) :
    destuffStream 0 x = x.take (p + 5) ++ destuffStream 0 (x.drop (p + 6)) := by
  obtain ⟨hstands, hfirst⟩ := findPattern_some h
  have hpattern : (x.drop p).take 6 = List.replicate 5 true ++ [false] := hstands
  have hones : x.take (p + 5) = x.take p ++ List.replicate 5 true := by
    have hfive := congrArg (List.take 5) hpattern
    rw [List.take_take] at hfive
    rw [List.take_add, show (x.drop p).take 5 = List.replicate 5 true from hfive]
  have hcut : x = x.take (p + 5) ++ false :: x.drop (p + 6) := by
    calc x = x.take p ++ (x.drop p).take 6 ++ x.drop (p + 6) := by rw [← List.take_add, List.take_append_drop]
      _ = x.take (p + 5) ++ false :: x.drop (p + 6) := by rw [hpattern, hones]; simp
  have hcount : 5 ≤ onesAfter 0 (x.take (p + 5)) := by
    rw [hones, onesAfter_append, onesAfter_replicate]
    exact Nat.le_add_left 5 _
  conv_lhs => rw [hcut]
  rw [destuffStream_append (ones := 0) (stuffFree_take hfirst), destuffStream, if_pos hcount]

theorem destuffUpTo_eq_destuffStream {n : Nat} {x : Bits} (hn : x.length ≤ n) :
    destuffUpTo n x = destuffStream 0 x := by
  induction n generalizing x with
  | zero =>
    obtain rfl := List.length_eq_zero_iff.1 (Nat.le_zero.1 hn)
    rfl
  | succ n ih =>
    rw [destuffUpTo]
    split
    next hnone => exact (destuffStream_of_stuffFree (findPattern_none stuffPattern_ne_nil hnone)).symm
    next p hfound =>
      have hend := findPattern_le stuffPattern_ne_nil hfound
      rw [destuffStream_of_findPattern hfound, ih (by rw [List.length_drop]; omega)]

theorem destuff_eq_destuffStream (x : Bits) : destuff x = destuffStream 0 x :=
  destuffUpTo_eq_destuffStream (Nat.le_refl _)

/-! ## Zero-insertion undone -/

/-- The sender and the stream count the same ones, and the sender never lets the stream see a sixth. -/
theorem destuffStream_stuffFrom {ones : Nat} (h : ones ≤ 4) (x : Bits) :
    destuffStream ones (stuffFrom ones x) = x := by
  induction x generalizing ones with
  | nil => rfl
  | cons b x ih =>
    cases b with
    | false => rw [stuffFrom, destuffStream, if_neg (by omega), ih (Nat.zero_le 4)]
    | true =>
      rw [stuffFrom]
      split
      next hfour =>
        rw [destuffStream, destuffStream, if_pos (by omega), ih (Nat.zero_le 4)]
      next hfew => rw [destuffStream, ih (by omega)]

end Sys2Proof.Machine

open Sys2Proof Sys2Proof.Machine

/-- Settles O56: by induction over the deletions, each being the stream's next one. -/
theorem destuffIsTheStreamingForm : Obligations.DestuffIsTheStreamingForm := destuff_eq_destuffStream

/-- Settles O57: the stream drops exactly the zeros that the sender inserted. -/
theorem destuffInvertsStuff : Obligations.DestuffInvertsStuff := fun x => by
  rw [destuff_eq_destuffStream, stuff, destuffStream_stuffFrom (Nat.zero_le 4)]

end

section
/-! PROOFS. The shift register of the CRC: its shifts are linear and lose nothing, which is what O59 and O60 rest on. -/

namespace Sys2Proof.Machine

/-! ## One shift -/

theorem crcShift_xor (a b : Half) : crcShift (a ^^^ b) = crcShift a ^^^ crcShift b := by
  have hcancel : ∀ x y p : Half, x ^^^ y = (x ^^^ p) ^^^ (y ^^^ p) := fun x y p => by
    rw [BitVec.xor_comm y p, BitVec.xor_assoc, ← BitVec.xor_assoc p, BitVec.xor_self, BitVec.zero_xor]
  unfold crcShift
  rw [BitVec.getLsbD_xor, BitVec.ushiftRight_xor_distrib]
  cases a.getLsbD 0 <;> cases b.getLsbD 0
  · rfl
  · exact BitVec.xor_assoc _ _ _
  · simp only [Bool.true_xor, Bool.not_false, if_true, Bool.false_eq_true, if_false]
    rw [BitVec.xor_assoc, BitVec.xor_comm (b >>> 1), ← BitVec.xor_assoc]
  · exact hcancel _ _ _

theorem crcShift_of_even {a : Half} (h : a.getLsbD 0 = false) : crcShift a = a >>> 1 := by
  rw [crcShift, h, if_neg Bool.false_ne_true]

/-- The top bit of the polynomial keeps the bit that is shifted out. -/
theorem crcShift_getLsbD_top (a : Half) : (crcShift a).getLsbD 15 = a.getLsbD 0 := by
  unfold crcShift
  split <;> simp_all

theorem crcShift_injective : Function.Injective crcShift := by
  intro a b h
  have hlow : a.getLsbD 0 = b.getLsbD 0 := by rw [← crcShift_getLsbD_top, h, crcShift_getLsbD_top]
  have hhigh : a >>> 1 = b >>> 1 := by
    unfold crcShift at h
    rw [hlow] at h
    split at h
    · exact (BitVec.xor_left_inj _).1 h
    · exact h
  refine BitVec.eq_of_getLsbD_eq fun i hi => ?_
  cases i with
  | zero => exact hlow
  | succ i => simpa [Nat.add_comm] using congrArg (·.getLsbD i) hhigh

/-! ## Eight shifts -/

/-- The eight shifts of a byte. -/
def crcShifts (a : Half) : Half := crcShift^[8] a

theorem crcByte_eq (crc : Half) (v : Byte) : crcByte crc v = crcShifts (crc ^^^ v.setWidth 16) := rfl

theorem crcShifts_xor (a b : Half) : crcShifts (a ^^^ b) = crcShifts a ^^^ crcShifts b := by
  simp only [crcShifts, Function.iterate_succ, Function.iterate_zero, Function.comp_apply, id, crcShift_xor]

theorem crcShifts_injective : Function.Injective crcShifts := crcShift_injective.iterate 8

/-- Shifts over zeros only move the bits down. -/
theorem crcShift_iterate_of_low {n : Nat} {a : Half} (h : ∀ i < n, a.getLsbD i = false) : crcShift^[n] a = a >>> n := by
  induction n generalizing a with
  | zero => rfl
  | succ n ih =>
    have hrest : ∀ i < n, (a >>> 1).getLsbD i = false := fun i hi => by
      rw [BitVec.getLsbD_ushiftRight, Nat.add_comm]
      exact h (i + 1) (Nat.succ_lt_succ hi)
    rw [Function.iterate_succ_apply, crcShift_of_even (h 0 (Nat.succ_pos n)), ih hrest, ← BitVec.shiftRight_add,
      Nat.add_comm]

/-- A bit of two bytes put together is one of the low or one of the high byte. -/
theorem getLsbD_byte_append (hi lo : Byte) (i : Nat) :
    (hi ++ lo).getLsbD i = if i < 8 then lo.getLsbD i else hi.getLsbD (i - 8) :=
  BitVec.getLsbD_append

theorem crcShifts_append_zero (v : Byte) : crcShifts (v ++ 0#8) = v.setWidth 16 := by
  have hlow : ∀ i < 8, (v ++ 0#8).getLsbD i = false := fun i hi => by
    rw [getLsbD_byte_append, if_pos hi, BitVec.getLsbD_zero]
  rw [crcShifts, crcShift_iterate_of_low hlow]
  refine BitVec.eq_of_getLsbD_eq fun i hi => ?_
  rw [BitVec.getLsbD_ushiftRight, getLsbD_byte_append, if_neg (by omega), Nat.add_sub_cancel_left,
    BitVec.getLsbD_setWidth, decide_eq_true hi, Bool.true_and]

theorem append_eq_xor (hi lo : Byte) : hi ++ lo = (hi ++ 0#8) ^^^ lo.setWidth 16 := by
  refine BitVec.eq_of_getLsbD_eq fun i hlt => ?_
  rw [BitVec.getLsbD_xor, getLsbD_byte_append, getLsbD_byte_append, BitVec.getLsbD_setWidth, decide_eq_true hlt,
    Bool.true_and, BitVec.getLsbD_zero]
  split_ifs with hlow
  · rw [Bool.false_xor]
  · rw [BitVec.getLsbD_of_ge lo i (Nat.le_of_not_lt hlow), Bool.xor_false]

/-! ## Frame check sequences -/

/-- The register after all bytes (42_destuff_crc.md R311). -/
def crcRegister (bytes : List Byte) : Half := bytes.foldl crcByte 0xFFFF#16

theorem crc16_eq (bytes : List Byte) : crc16 bytes = crcRegister bytes ^^^ 0xFFFF#16 := rfl

theorem crcRegister_append (front rest : List Byte) :
    crcRegister (front ++ rest) = rest.foldl crcByte (crcRegister front) := List.foldl_append

/-- A byte array of two or more bytes has a front and two FCS bytes (42_destuff_crc.md R312). -/
theorem exists_eq_append_pair {bytes : List Byte} (h : 2 ≤ bytes.length) :
    ∃ front lo hi, bytes = front ++ [lo, hi] := by
  have hlen : (bytes.drop (bytes.length - 2)).length = 2 := by
    rw [List.length_drop]
    omega
  obtain ⟨lo, hi, hlast⟩ := List.length_eq_two.1 hlen
  exact ⟨_, lo, hi, by rw [← hlast, List.take_append_drop]⟩

theorem crcCalc_append_pair (front : List Byte) (lo hi : Byte) : crcCalc (front ++ [lo, hi]) = crc16 front := by
  simp [crcCalc]

theorem crcRx_append_pair (front : List Byte) (lo hi : Byte) : crcRx (front ++ [lo, hi]) = hi ++ lo := by
  simp [crcRx]

/-- The two FCS bytes cancel what is in the register but for the constant of the final exclusive-or. -/
theorem crcByte_crcByte_fcs {r : Half} {lo hi : Byte} (h : r ^^^ 0xFFFF#16 = hi ++ lo) :
    crcByte (crcByte r lo) hi = crcShifts (crcShifts 0xFFFF#16) := by
  have hr : r = (hi ++ 0#8) ^^^ lo.setWidth 16 ^^^ 0xFFFF#16 := by
    rw [← append_eq_xor, ← h, BitVec.xor_assoc, BitVec.xor_self, BitVec.xor_zero]
  have hxor : r ^^^ lo.setWidth 16 = (hi ++ 0#8) ^^^ 0xFFFF#16 := by
    rw [hr, BitVec.xor_assoc, BitVec.xor_assoc, BitVec.xor_comm (0xFFFF#16), ← BitVec.xor_assoc (lo.setWidth 16),
      BitVec.xor_self, BitVec.zero_xor]
  have hlow : crcByte r lo = hi.setWidth 16 ^^^ crcShifts 0xFFFF#16 := by
    rw [crcByte_eq, hxor, crcShifts_xor, crcShifts_append_zero]
  rw [crcByte_eq, hlow, BitVec.xor_comm (hi.setWidth 16), BitVec.xor_assoc, BitVec.xor_self, BitVec.xor_zero]

/-- The register over a good array with its FCS (95_test_vectors.md V-C8). -/
theorem crcRegister_of_good {bytes : List Byte} (hlen : 2 ≤ bytes.length) (hgood : crcCalc bytes = crcRx bytes) :
    crcRegister bytes = 0xF0B8#16 := by
  obtain ⟨front, lo, hi, rfl⟩ := exists_eq_append_pair hlen
  rw [crcCalc_append_pair, crcRx_append_pair, crc16_eq] at hgood
  rw [crcRegister_append]
  exact (crcByte_crcByte_fcs hgood).trans (by simp [crcShifts, crcShift])

/-! ## One flipped bit -/

theorem crcByte_left_injective (v : Byte) : Function.Injective (crcByte · v) := fun _ _ h =>
  (BitVec.xor_left_inj _).1 (crcShifts_injective h)

theorem crcByte_right_injective (crc : Half) : Function.Injective (crcByte crc) := fun v w h => by
  have hwide := (BitVec.xor_right_inj _).1 (crcShifts_injective h)
  simpa using congrArg (BitVec.setWidth 8) hwide

/-- Two registers stay different over the same bytes. -/
theorem foldl_crcByte_injective (bytes : List Byte) : Function.Injective fun crc => bytes.foldl crcByte crc := by
  induction bytes with
  | nil => exact fun _ _ h => h
  | cons v bytes ih => exact fun _ _ h => crcByte_left_injective v (ih h)

/-- Replacing one byte of an array by another changes the register. -/
theorem crcRegister_set_ne {bytes : List Byte} {j : Nat} (hj : j < bytes.length) {v : Byte} (hv : v ≠ bytes[j]) :
    crcRegister (bytes.set j v) ≠ crcRegister bytes := by
  intro h
  rw [List.set_eq_take_append_cons_drop, if_pos hj, crcRegister_append] at h
  conv_rhs at h => rw [← List.take_append_drop j bytes, List.drop_eq_getElem_cons hj, crcRegister_append]
  exact hv (crcByte_right_injective _ (foldl_crcByte_injective _ h))

end Sys2Proof.Machine

open Sys2Proof Sys2Proof.Machine

/-- Settles O59: the register over a good array is the constant, and one other byte makes it another. -/
theorem singleBitErrorsAreDetected : Obligations.SingleBitErrorsAreDetected := by
  intro bytes j t hlen hj ht hgood hflipped
  have hflip : bytes.getD j 0#8 ^^^ BitVec.twoPow 8 t ≠ bytes[j] := by
    rw [List.getD_eq_getElem _ _ hj]
    intro h
    have hbit := congrArg (·.getLsbD t) h
    simp [ht] at hbit
  refine crcRegister_set_ne hj hflip ?_
  rw [crcRegister_of_good hlen hgood]
  exact crcRegister_of_good (by rw [List.length_set]; exact hlen) hflipped

/-- Settles O60: the register over a good array is the constant before the final exclusive-or. -/
theorem goodFramesHaveTheConstantResidue : Obligations.GoodFramesHaveTheConstantResidue := fun bytes hlen hgood => by
  rw [crc16_eq, crcRegister_of_good hlen hgood]
  rfl

end

section
/-! PROOFS. Accepted jobs and command writes, and what reads and writes of each kind of location answer: what O16, O19,
O21 to O25, O28 and O30 rest on. -/

namespace Sys2Proof.Machine

/-! ## Commands -/

/-- START of a job whose checks pass (43_commands.md R357). -/
theorem State.startJob_of_operandsLegal {s : State} {j : Job} (hidle : s.engine = .idle) (h : s.operandsLegal j) :
    s.startJob j = s.acceptJob j := by
  rw [State.startJob, (s.startError_none_iff j).2 ⟨hidle, h⟩]

theorem State.operandsLegal_of_demodulates {s : State} {j : Job} (hj : j.demodulates = true)
    (hsr : 1000 ≤ s.sampleRate) (hn : s.sampleCount ≤ s.sampleCap) : s.operandsLegal j :=
  ⟨fun _ => ⟨hsr, hn⟩, by rintro rfl; nomatch hj⟩

theorem State.operandsLegal_frame {s : State} (h : s.bitLength ≤ s.bitCap) : s.operandsLegal .frame :=
  ⟨nofun, fun _ => h⟩

theorem exec_jobInstr (s : State) (j : Job) : exec j.instr s = .next ((s.startJob j).respond false) := by
  cases j <;> rfl

theorem exec_jobInstr_of_operandsLegal {s : State} {j : Job} (hidle : s.engine = .idle) (h : s.operandsLegal j) :
    exec j.instr s = .next ((s.acceptJob j).respond false) := by
  rw [exec_jobInstr, State.startJob_of_operandsLegal hidle h]

/-- A command does what its word does on CMD (43_commands.md R350). -/
theorem State.exec_instr (s : State) (c : Command) : exec c.instr s = .next ((s.onCmd c.word).respond false) := by
  rw [State.onCmd, decodeCommand_word]
  cases c <;> rfl

/-! ## Reads -/

/-- A read of a location that no running job writes. -/
theorem execBusRead32_of_not_writes {s : State} {size : Nat} {addr : Addr} {l : Location}
    (hloc : s.locate size addr = some l) (hw : s.engine.writes l = false) :
    execBusRead32 size addr s = .next (s.respondRead (s.readLocation l) false) := by
  simp [execBusRead32, hloc, hw]

/-- A read of an output of the running job (20_memory.md R118). -/
theorem execBusRead32_of_writes {s : State} {size : Nat} {addr : Addr} {l : Location}
    (hloc : s.locate size addr = some l) (hw : s.engine.writes l = true) :
    execBusRead32 size addr s = .next s.respondDraw := by
  simp [execBusRead32, hloc, hw]

/-- An idle read of a register. -/
theorem exec_busRead32_reg {s : State} (hidle : s.engine = .idle) {addr : Addr} {r : Reg} (h : addr.toNat = r.offset) :
    exec (.busRead32 4 addr) s = .next (s.respondRead (s.readReg r) false) := by
  rw [exec_busRead32, execBusRead32_of_idle hidle (s.locate_of_toNat_eq_offset h)]
  rfl

theorem State.readReg_ctrl (s : State) : s.readReg .ctrl = if s.irqEn then 1#32 else 0#32 := by
  rw [State.readReg]
  cases s.irqEn <;> rfl

/-- STATUS is no output of any job. -/
theorem EngineState.writes_status (e : EngineState) : e.writes (.reg .status) = false := by
  cases e with
  | idle => rfl
  | busy j => cases j <;> rfl

/-- The flags stand in STATUS in their places, and the reserved bits are 0 (10_state.md R38). -/
theorem statusWord_fields (e : EngineState) (st : Status) :
    (statusWord e st).getLsbD 0 = e.isBusy ∧ (statusWord e st).getLsbD 1 = st.done ∧
    (statusWord e st).getLsbD 2 = st.err ∧ (statusWord e st).getLsbD 3 = st.aborted ∧
    (statusWord e st).getLsbD 4 = st.werr ∧ (statusWord e st).extractLsb' 5 3 = 0#3 ∧
    (statusWord e st).extractLsb' 8 4 = st.errcode ∧ (statusWord e st).extractLsb' 12 20 = 0#20 := by
  have hzero : ∀ {n : Nat} (x : BitVec n) (b : Bool), (x ++ BitVec.ofBool b).getLsbD 0 = b := fun x b => by
    rw [BitVec.getLsbD_append]
    simp
  have hsucc : ∀ {n : Nat} (x : BitVec n) (b : Bool) (i : Nat),
      (x ++ BitVec.ofBool b).getLsbD (i + 1) = x.getLsbD i := fun x b i => by
    rw [BitVec.getLsbD_append]
    simp
  have hfield : ∀ {n : Nat} (x : BitVec n) (b : Bool) (i k : Nat),
      (x ++ BitVec.ofBool b).extractLsb' (i + 1) k = x.extractLsb' i k := fun x b i k =>
    BitVec.extractLsb'_append_eq_of_le (Nat.le_add_left 1 i)
  unfold statusWord
  refine ⟨hzero _ _, ?_, ?_, ?_, ?_, ?_, ?_, ?_⟩
  · rw [hsucc, hzero]
  · rw [hsucc, hsucc, hzero]
  · rw [hsucc, hsucc, hsucc, hzero]
  · rw [hsucc, hsucc, hsucc, hsucc, hzero]
  · rw [hfield, hfield, hfield, hfield, hfield]
    exact BitVec.extractLsb'_append_eq_right
  · rw [hfield, hfield, hfield, hfield, hfield, BitVec.extractLsb'_append_eq_of_le (by decide)]
    exact BitVec.extractLsb'_append_eq_right
  · rw [hfield, hfield, hfield, hfield, hfield, BitVec.extractLsb'_append_eq_of_le (by decide),
      BitVec.extractLsb'_append_eq_of_le (by decide)]
    rfl

/-! ## Writes -/

/-- Storing the low `n` bits of a word and reading them back masks the word (10_state.md R54). -/
theorem Word.setWidth_extractLsb' (v : Word) (n : Nat) :
    (v.extractLsb' 0 n).setWidth 32 = v &&& BitVec.ofNat 32 (2 ^ n - 1) := by
  refine BitVec.eq_of_getLsbD_eq fun i hi => ?_
  rw [BitVec.getLsbD_setWidth, BitVec.getLsbD_extractLsb', BitVec.getLsbD_and, BitVec.getLsbD_ofNat,
    Nat.testBit_two_pow_sub_one]
  simp [hi, Bool.and_comm]

@[simp] theorem State.ramBytes_desc (s : State) : s.ramBytes .desc = 32 * s.descCap := rfl

/-- Word `w` of descriptor `n` is word `8 * n + w` of descriptor RAM (20_memory.md R107). -/
theorem State.descWord_lt (s : State) {n w : Nat} (hn : n < s.descCap) (hw : w < 8) :
    4 * (8 * n + w) < s.ramBytes .desc := by
  rw [State.ramBytes_desc]
  omega

theorem descWord_offset (n w : Nat) : 0x1000000 + 32 * n + 4 * w = Ram.desc.base + 4 * (8 * n + w) := by
  rw [Ram.base]
  omega

theorem State.frameWord_lt (s : State) {w : Nat} (hw : w < s.frameCap / 4) : 4 * w < s.ramBytes .frame := by
  rw [State.ramBytes_frame]
  omega

end Sys2Proof.Machine

open Sys2Proof Sys2Proof.Machine

/-- Settles O16: the checks of START are the statement's hypotheses, and acceptance is its next state. -/
theorem legalJobsAreAccepted : Obligations.LegalJobsAreAccepted := by
  intro s hidle
  have haccept : ∀ j : Job, s.operandsLegal j → exec j.instr s = .next ((s.acceptJob j).respond false) :=
    fun _ => exec_jobInstr_of_operandsLegal hidle
  exact ⟨fun hsr hn => ⟨haccept .run (State.operandsLegal_of_demodulates rfl hsr hn),
    haccept .demod (State.operandsLegal_of_demodulates rfl hsr hn)⟩,
    fun hbits => haccept .frame (State.operandsLegal_frame hbits)⟩

/-- Settles O19: the word of a command carries that command. -/
theorem commandWriteDoesWhatTheCommandDoes : Obligations.CommandWriteDoesWhatTheCommandDoes :=
  fun s c => (exec_busWrite32_cmd s c.word).trans (s.exec_instr c).symm

/-- Settles O21: each of the offsets is a register's own, and the value is what that register reads. -/
theorem idleRegisterReadsReturnTheRegister : Obligations.IdleRegisterReadsReturnTheRegister := by
  intro s hidle p hp
  have hreg : ∃ r : Reg, p.1.toNat = r.offset ∧ p.2 = s.readReg r := by
    rw [← s.readReg_ctrl] at hp
    revert p
    simp only [List.forall_mem_cons]
    exact ⟨⟨.id, rfl, rfl⟩, ⟨.version, rfl, rfl⟩, ⟨.cap, rfl, rfl⟩, ⟨.ctrl, rfl, rfl⟩, ⟨.cmd, rfl, rfl⟩,
      ⟨.sr, rfl, rfl⟩, ⟨.thresh, rfl, rfl⟩, ⟨.nsamp, rfl, rfl⟩, ⟨.bitcount, rfl, rfl⟩, ⟨.ncand, rfl, rfl⟩,
      ⟨.naccept, rfl, rfl⟩, ⟨.ncrcOk, rfl, rfl⟩, ⟨.nrejShort, rfl, rfl⟩, ⟨.nrejInact, rfl, rfl⟩,
      ⟨.ndropLen, rfl, rfl⟩, ⟨.ndropAddr, rfl, rfl⟩, ⟨.nframeBytes, rfl, rfl⟩, ⟨.tailbits, rfl, rfl⟩, by simp⟩
  obtain ⟨r, haddr, hvalue⟩ := hreg
  rw [exec_busRead32_reg hidle haddr, hvalue]
  rfl

/-- Settles O22: STATUS is no job's output, and its word holds each flag in its place. -/
theorem statusReadsShowTheFlags : Obligations.StatusReadsShowTheFlags := by
  intro s
  have hloc : s.locate 4 0x018#26 = some (.reg .status) := s.locate_of_toNat_eq_offset rfl
  obtain ⟨hbusy, hflags⟩ := statusWord_fields s.engine s.status
  refine ⟨statusWord s.engine s.status, execBusRead32_of_not_writes hloc s.engine.writes_status, ?_, hflags⟩
  rw [hbusy, Bool.eq_iff_iff, EngineState.isBusy_iff_ne_idle, decide_eq_true_iff]

/-- Settles O23: each word stands in the backed part of its RAM. -/
theorem idleRamReadsReturnTheWord : Obligations.IdleRamReadsReturnTheWord := by
  intro s hidle
  refine ⟨fun i hi => exec_busRead32_ramWord hidle .sample (by simpa using hi),
    fun w hw => exec_busRead32_ramWord hidle .bit (by simpa using hw),
    fun w hw => exec_busRead32_ramWord hidle .frame (s.frameWord_lt hw), fun n hn w hw => ?_⟩
  rw [descWord_offset]
  exact exec_busRead32_ramWord hidle .desc (s.descWord_lt hn hw)

/-- Settles O24: the model's outputs of a job are those of the statement's list. -/
theorem busyReadsOfOutputsAreDraws : Obligations.BusyReadsOfOutputsAreDraws := by
  intro s j addr l hbusy hloc
  have hwrites : s.engine.writes l = outputOf j l := by rw [hbusy, EngineState.writes_busy, outputOf_eq_writes]
  split_ifs with hout
  · exact execBusRead32_of_writes hloc (hwrites.trans hout)
  · exact execBusRead32_of_not_writes hloc (hwrites.trans (Bool.eq_false_iff.2 hout))

/-- Settles O25: an error response, a draw and a value alike leave memory and the draws of the RAMs. -/
theorem readsHaveNoSideEffect : Obligations.ReadsHaveNoSideEffect := by
  intro s size addr
  rw [exec_busRead32]
  rcases execBusRead32_cases size addr s with ⟨-, h⟩ | ⟨l, -, -, h⟩ | ⟨l, -, -, h⟩
  · exact ⟨_, h, rfl, fun _ _ => rfl⟩
  · exact ⟨_, h, rfl, fun m a => State.byteAt_of_get rfl (s.epochs.advance_of m)⟩
  · exact ⟨_, h, rfl, fun _ _ => rfl⟩

/-- Settles O28: the stored field is the word's low bits, and a register reads its field with zeros above. -/
theorem registerWritesStoreTheirField : Obligations.RegisterWritesStoreTheirField := by
  refine ⟨fun s v => ⟨exec_busWrite32_reg s (r := .ctrl) rfl v, ?ctrl⟩, fun s v hidle => ?operands⟩
  case ctrl =>
    rw [State.readReg_ctrl, BitVec.and_one_eq_setWidth_ofBool_getLsbD]
    cases v.getLsbD 0 <;> rfl
  case operands =>
    have hwrite : ∀ {addr : Addr} (r : Reg) (t : State), addr.toNat = r.offset → s.writeReg v r = t →
        exec (.busWrite32 4 addr v) s = .next (t.respond false) := fun r t ha ht => ht ▸ exec_busWrite32_reg s ha v
    refine ⟨hwrite .sr { s with sr := v.extractLsb' 0 18 } rfl ?_,
      hwrite .thresh { s with thresh := v.extractLsb' 0 22 } rfl ?_,
      hwrite .nsamp { s with nsamp := v.extractLsb' 0 23 } rfl ?_,
      hwrite .bitcount { s with bitcount := v.extractLsb' 0 23 } rfl ?_,
      Word.setWidth_extractLsb' v 18, Word.setWidth_extractLsb' v 22, Word.setWidth_extractLsb' v 23,
      Word.setWidth_extractLsb' v 23⟩
    all_goals simp [State.writeReg, hidle, BitVec.setWidth_eq_extractLsb']

/-- Settles O30: the registers' writes are nothing, and the two RAMs are read-only. -/
theorem writesToReadOnlyLocationsAreIgnored : Obligations.WritesToReadOnlyLocationsAreIgnored := by
  intro s v
  have hreg : ∀ {addr : Addr} (r : Reg), addr.toNat = r.offset → s.writeReg v r = s →
      exec (.busWrite32 4 addr v) s = .next (s.respond false) := fun r ha hsame => by
    rw [exec_busWrite32_reg s ha, hsame]
  refine ⟨?registers, fun w hw => exec_busWrite32_ramWord s .frame (s.frameWord_lt hw) v, fun n hn w hw => ?_⟩
  case registers =>
    simp only [List.forall_mem_cons]
    exact ⟨hreg .id rfl rfl, hreg .version rfl rfl, hreg .cap rfl rfl, hreg .ncand rfl rfl, hreg .naccept rfl rfl,
      hreg .ncrcOk rfl rfl, hreg .nrejShort rfl rfl, hreg .nrejInact rfl rfl, hreg .ndropLen rfl rfl,
      hreg .ndropAddr rfl rfl, hreg .nframeBytes rfl rfl, hreg .tailbits rfl rfl, by simp⟩
  rw [descWord_offset]
  exact exec_busWrite32_ramWord s .desc (s.descWord_lt hn hw) v

end

section
/-! PROOFS. The step by the head of the schedule, the schedule run to its end, reset and the interrupt output: what O6,
O7, O11 to O13, O14 and O39 rest on. -/

namespace Sys2Proof.Machine

/-! ## The head of the schedule -/

theorem State.nextEvent_of_cons {s : State} {e : Event} {rest : List Event} (h : s.schedule = e :: rest) :
    s.nextEvent = e := by
  rw [State.nextEvent, h]

/-- With nothing scheduled it is the engine's turn (log 4). -/
theorem State.nextEvent_of_nil {s : State} (h : s.schedule = []) : s.nextEvent = .engine := by
  rw [State.nextEvent, h]

theorem State.takeEvent_of_cons {s : State} {e : Event} {rest : List Event} (h : s.schedule = e :: rest) :
    s.takeEvent = { s with schedule := rest } := by
  rw [State.takeEvent, h, List.tail_cons]

theorem step_of_cons_host {s : State} {t : BusTransaction} {rest : List Event} (h : s.schedule = .host t :: rest) :
    step s = exec (decode t) { s with schedule := rest } := by
  rw [step_of_host (State.nextEvent_of_cons h), State.takeEvent_of_cons h]

/-! ## A step takes one event -/

theorem Effect.schedule {s u : State} {i : Instr} (h : Effect s i u) : u.schedule = s.schedule := by
  cases h with
  | nothing | draw | illegal | clear | enableIrq | ignored => rfl
  | start j => rcases s.startJob_cases j with ⟨_, -, heq⟩ | ⟨-, heq⟩ <;> rw [heq] <;> rfl
  | abort =>
    rcases s.abortJob_cases with ⟨-, heq⟩ | ⟨j, -, heq⟩ <;> rw [heq]
    cases j <;> rfl
  | operand addr v hidle hr =>
    obtain ⟨_, _, _, _, heq⟩ := State.writeReg_of_idle hidle hr v
    rw [heq]
  | store v hidle hm hloc =>
    obtain ⟨_, heq, -⟩ := s.writeRam_eq_storeBytes hm _ v
    rw [heq, State.storeBytes_schedule]

theorem State.engineTurn_idle (s : State) : s.engineTurn.engine = .idle := by
  rcases s.engineTurn_cases with ⟨hidle, heq⟩ | ⟨j, -, heq⟩ <;> rw [heq]
  · exact hidle
  · rfl

theorem State.engineTurn_schedule (s : State) : s.engineTurn.schedule = s.schedule := by
  rcases s.engineTurn_cases with ⟨-, heq⟩ | ⟨j, -, heq⟩ <;> rw [heq]
  cases j <;> rfl

/-- Each step takes the head of the schedule, if there is one. -/
theorem exists_step (s : State) : ∃ t, step s = .next t ∧ t.schedule = s.schedule.tail := by
  cases hev : s.nextEvent with
  | host tr =>
    obtain ⟨u, v, e, hu, hexec⟩ := exec_effect (decode tr) s.takeEvent
    exact ⟨_, (step_of_host hev).trans hexec, hu.schedule⟩
  | engine => exact ⟨_, step_of_engine hev, s.takeEvent.engineTurn_schedule⟩
  | reset => exact ⟨_, step_of_reset hev, rfl⟩

theorem State.engineTurn_of_idle {s : State} (h : s.engine = .idle) : s.engineTurn = s := by
  rw [State.engineTurn, h]

theorem State.finishJob_runStages (s : State) (j : Job) : (s.runStages j).finishJob = { s with
    engine := .idle, status := { s.status with done := true }, mem := (s.runStages j).mem,
    bitcount := (s.runStages j).bitcount, counters := (s.runStages j).counters } := by
  cases j <;> rfl

/-- A job writes RAM, BITCOUNT and the counters, and ends (43_commands.md R358). -/
theorem State.complete_eq (s : State) (j : Job) : s.complete j = { s with
    engine := .idle, status := { s.status with done := true }, mem := (s.complete j).mem,
    bitcount := (s.complete j).bitcount, counters := (s.complete j).counters } := by
  simp only [State.complete, State.finishJob_mem, State.finishJob_bitcount, State.finishJob_counters]
  exact s.finishJob_runStages j

/-! ## A run -/

theorem run_succ {M : Host.Core} {s t : M.State} (h : M.step s = .next t) (k : Nat) :
    M.run (k + 1) s = M.run k t := by
  rw [Host.Core.run, h]

/-- With one step more than there are events, the last step is the engine's turn on an empty schedule. -/
theorem exists_run_idle {n : Nat} {s : State} (hn : s.schedule.length = n) :
    ∃ t : State, Sys2Proof.core.run (n + 1) s = .next t ∧ t.engine = .idle ∧ t.schedule = [] := by
  induction n generalizing s with
  | zero =>
    have hnil : s.schedule = [] := List.length_eq_zero_iff.1 hn
    have hstep : step s = .next s.takeEvent.engineTurn := step_of_engine (State.nextEvent_of_nil hnil)
    refine ⟨s.takeEvent.engineTurn, run_succ (M := Sys2Proof.core) hstep 0,
      s.takeEvent.engineTurn_idle, ?_⟩
    rw [State.engineTurn_schedule, State.takeEvent_schedule, hnil, List.tail_nil]
  | succ n ih =>
    obtain ⟨u, hstep, hrest⟩ := exists_step s
    rw [run_succ (M := Sys2Proof.core) hstep]
    exact ih (by rw [hrest, List.length_tail, hn, Nat.add_sub_cancel])

/-! ## Reset -/

/-- After a reset every register but CAP reads as in `State.reset` (10_state.md R59). -/
theorem State.resetBlock_readReg (s : State) {r : Reg} (h : r ≠ .cap) :
    s.resetBlock.readReg r = State.reset.readReg r := by
  cases r with
  | cap => exact absurd rfl h
  | id | version | ctrl | cmd | status | sr | thresh | nsamp | bitcount | ncand | naccept | ncrcOk | nrejShort
  | nrejInact | ndropLen | ndropAddr | nframeBytes | tailbits => rfl

theorem State.byteAt_of_mem_nil {s : State} (h : s.mem = []) (m : Ram) (a : Nat) :
    s.byteAt m a = Config.ramDraw (s.epochs.of m) a := by
  rw [State.byteAt, h]
  rfl

/-! ## The interrupt output -/

theorem State.irq_acceptJob {s : State} (herr : s.status.err = false) (j : Job) :
    ((s.acceptJob j).respond false).irq = false := by
  simp [State.irq, Status.accepted, herr]

end Sys2Proof.Machine

open Sys2Proof Sys2Proof.Machine

/-- Settles O6: the transaction at the head is decoded, and decoding undoes encoding. -/
theorem stepRunsTheDecodedTransaction : Obligations.StepRunsTheDecodedTransaction :=
  ⟨fun _ _ _ h => step_of_cons_host h, fun _ _ _ hwf h => by rw [step_of_cons_host h, decode_encode hwf],
    fun _ _ _ => step_of_host rfl⟩

/-- Settles O7: the turn is `engineTurn`, whose two cases are the statement's. -/
theorem engineTurnCompletesTheRunningJob : Obligations.EngineTurnCompletesTheRunningJob := by
  intro s hsched
  have hturn : s.nextEvent = .engine := by
    rcases hsched with hnil | ⟨rest, hcons⟩
    · exact State.nextEvent_of_nil hnil
    · exact State.nextEvent_of_cons hcons
  refine ⟨fun hidle => ?idle, fun j hbusy => ⟨_, step_of_runningJob hturn hbusy, ?frame, ?demod, ?frameJob⟩⟩
  case idle =>
    rw [step_of_engine hturn, State.engineTurn_of_idle (s := s.takeEvent) hidle]
    rfl
  case frame => exact s.takeEvent.complete_eq j
  case demod =>
    rintro rfl
    rfl
  case frameJob =>
    rintro rfl
    rfl

/-- Settles O11: by induction on the schedule, each step taking one event of it. -/
theorem everyScheduleEndsWithAnIdleEngine : Obligations.EveryScheduleEndsWithAnIdleEngine :=
  fun _ => exists_run_idle rfl

/-- Settles O12: every step has a next state, with one event less to come. -/
theorem stepNeverStops : Obligations.StepNeverStops := fun s => (exists_step s).imp fun _ h => h.1

/-- Settles O13: the next state is `resetBlock`, with no byte stored and every RAM at the old next draw. -/
theorem resetEventGivesTheResetValues : Obligations.ResetEventGivesTheResetValues := by
  intro s rest h
  have hreg : ∀ {r : Reg} {v : Word}, r ≠ .cap → State.reset.readReg r = v → s.takeEvent.resetBlock.readReg r = v :=
    fun hr hv => (s.takeEvent.resetBlock_readReg hr).trans hv
  refine ⟨_, step_of_reset (State.nextEvent_of_cons h), rfl, rfl, ?_, ?_, rfl, ?_, ?_, ?_, ?_, ?_, ?_, ?_, ?_, ?_, ?_,
    ?_, ?_, ?_, ?_, ?_, ?_, fun m a => ?draws, rfl, ?rest⟩
  case draws =>
    rw [State.byteAt_of_mem_nil rfl, State.resetBlock_epochs, DrawEpochs.renewAll_of]
    rfl
  case rest => rw [State.resetBlock_schedule, State.takeEvent_schedule, h, List.tail_cons]
  all_goals exact hreg (by decide) (by decide)

/-- Settles O14: the registers one by one, and no byte is stored. -/
theorem resetStateReadsAsTheTable : Obligations.ResetStateReadsAsTheTable := by
  refine ⟨by decide, rfl, rfl, fun m a => ?_⟩
  rw [State.byteAt_of_mem_nil rfl]
  cases m <;> rfl

/-- Settles O39: completion sets DONE, the W1C write clears DONE and ERR, and acceptance clears DONE. -/
theorem irqFollowsDoneAndErr : Obligations.IrqFollowsDoneAndErr := by
  refine ⟨fun _ => rfl, fun s hturn hbusy hen => ?completion, fun s => ?w1c, fun s hidle herr => ?acceptance⟩
  case completion =>
    obtain ⟨j, hj⟩ := (EngineState.isBusy_iff _).1 ((EngineState.isBusy_iff_ne_idle _).2 hbusy)
    refine ⟨_, step_of_runningJob hturn hj, ?_⟩
    have hkept : (s.takeEvent.runStages j).irqEn = s.irqEn := by cases j <;> rfl
    simp [State.irq, hkept, hen]
  case w1c =>
    refine ⟨_, exec_busWrite32_reg s (r := .status) rfl _, ?_, rfl⟩
    simp [State.irq, State.writeReg, Status.w1c]
  case acceptance =>
    have haccept : ∀ j : Job, s.operandsLegal j → ∃ t, exec j.instr s = .next t ∧ t.engine = .busy j ∧ t.irq = false :=
      fun j hops => ⟨_, exec_jobInstr_of_operandsLegal hidle hops, rfl, State.irq_acceptJob herr j⟩
    exact ⟨fun hsr hn => ⟨haccept .run (State.operandsLegal_of_demodulates rfl hsr hn),
      haccept .demod (State.operandsLegal_of_demodulates rfl hsr hn)⟩,
      fun hbits => haccept .frame (State.operandsLegal_frame hbits)⟩

end

section
/-! PROOFS. The two stages of a RUN one behind the other: what O10 and O49 rest on. -/

namespace Sys2Proof.Machine

/-! ## The frame stage, by what it reports -/

theorem State.frameStage_wordAt_desc (s : State) {n w : Nat} (hn : n < s.frameResult.descs.length) (hw : w < 8) :
    s.frameStage.wordAt .desc (Ram.desc.base + 32 * n + 4 * w)
      = ((s.frameResult.descs.map Descriptor.words).getD n []).getD w 0#32 := by
  obtain ⟨-, hbytes, -⟩ := s.frameResult_fits
  rw [State.frameStage_wordAt, s.storeFrames_wordAt_desc hbytes hn hw]

theorem State.frameStage_byteAt_frame (s : State) {j : Nat} (hj : j < 4 * ((s.frameResult.bytes.length + 3) / 4)) :
    s.frameStage.byteAt .frame (Ram.frame.base + j) = s.frameResult.bytes.getD j 0#8 := by
  rw [State.frameStage_byteAt, s.storeFrames_byteAt_frame hj]

theorem State.frameStage_byteAt_outside (s : State) {a : Nat}
    (hframe : a < Ram.frame.base ∨ Ram.frame.base + 4 * ((s.frameResult.bytes.length + 3) / 4) ≤ a)
    (hdesc : a < Ram.desc.base ∨ Ram.desc.base + 32 * s.frameResult.descs.length ≤ a) (m : Ram) :
    s.frameStage.byteAt m a = s.byteAt m a := by
  rw [State.frameStage_byteAt, s.storeFrames_byteAt_outside hframe hdesc]

/-- The frame stage writes behind bit RAM (20_memory.md R101). -/
theorem State.frameStage_bitAt (s : State) {k : Nat} (hk : k < 2 ^ 23) : s.frameStage.bitAt k = s.bitAt k := by
  have hbelow : Ram.bit.base + k / 8 < Ram.frame.base := by
    simp only [Ram.base]
    omega
  have hle : Ram.frame.base ≤ Ram.desc.base := by decide
  rw [State.bitAt, s.frameStage_byteAt_outside (.inl hbelow) (.inl (by omega))]
  rfl

theorem State.frameResult_counters (s : State) :
    s.frameResult.counters.ncand.toNat = s.frameResult.descs.length ∧
    s.frameResult.counters.nframeBytes.toNat = s.frameResult.bytes.length := by
  obtain ⟨hdescs, hbytes, htail⟩ := s.frameResult_fits
  obtain ⟨hncand, -, -, -, -, -, -, hnframeBytes, -⟩ :=
    FrameResult.counters_toNat (r := s.frameResult) (by omega) (by omega) (by omega)
  exact ⟨hncand, hnframeBytes⟩

/-! ## What the frame stage reads behind the demodulator stage -/

/-- BITCOUNT never counts more bits than there are. -/
theorem State.demodStage_bitLength_le (s : State) : s.demodStage.bitLength ≤ s.demodBits.length :=
  Nat.mod_le _ _

theorem State.demodStage_bitAt_of_lt (s : State) {k : Nat} (hk : k < s.demodStage.bitLength) :
    s.demodStage.bitAt k = s.demodBits.getD k false := by
  have hle := s.demodStage_bitLength_le
  exact s.demodStage_bitAt (by omega)

/-- The frame stage reads back the bits that the demodulator stage has packed. -/
theorem State.demodStage_inputBits (s : State) : s.demodStage.inputBits = s.demodBits.take s.demodStage.bitLength := by
  have hle := s.demodStage_bitLength_le
  refine List.ext_getElem (by rw [State.inputBits_length, List.length_take, min_eq_left hle]) fun k hk hk' => ?_
  rw [State.inputBits_length] at hk
  rw [List.getElem_take, ← List.getD_eq_getElem s.demodBits false, ← s.demodStage_bitAt_of_lt hk]
  simp [State.inputBits]

/-- The bits of a RUN depend on its inputs only (40_demodulator.md R200). -/
theorem State.demodBits_congr {s s' : State} (hsr : s.sr = s'.sr) (hthresh : s.thresh = s'.thresh)
    (hnsamp : s.nsamp = s'.nsamp) (hsamples : ∀ i < s.sampleCount, s.sampleAt i = s'.sampleAt i) :
    s.demodBits = s'.demodBits := by
  have hstream : s.samples = s'.samples := by
    have hcount : s'.sampleCount = s.sampleCount := congrArg BitVec.toNat hnsamp.symm
    rw [State.samples, State.samples, hcount]
    exact List.map_congr_left fun i hi => hsamples i (List.mem_range.1 hi)
  rw [State.demodBits, State.demodBits, hstream, State.sampleRate, State.threshold, hsr, hthresh]
  rfl

/-- Two machines with the same demodulated bits give their frame stages the same bits. -/
theorem State.demodStage_bitLength_congr {s s' : State} (h : s.demodBits = s'.demodBits) :
    s.demodStage.bitLength = s'.demodStage.bitLength := by
  rw [State.bitLength, State.bitLength, State.demodStage_bitcount, State.demodStage_bitcount, h]

theorem State.demodStage_frameResult_congr {s s' : State} (h : s.demodBits = s'.demodBits) :
    s.demodStage.frameResult = s'.demodStage.frameResult := by
  rw [State.frameResult, State.frameResult, State.demodStage_inputBits, State.demodStage_inputBits,
    State.demodStage_bitLength_congr h, h]

/-! ## Two RUNs with the same demodulated bits -/

section
variable {s s' : State} (h : s.demodBits = s'.demodBits)
include h

theorem State.completeRun_bitAt_congr {k : Nat} (hk : k < s.demodStage.bitLength) :
    (s.complete .run).bitAt k = (s'.complete .run).bitAt k := by
  have hlt : k < 2 ^ 23 := Nat.lt_trans hk s.demodStage.bitLength_lt
  have hk' : k < s'.demodStage.bitLength := State.demodStage_bitLength_congr h ▸ hk
  simp only [State.complete, State.finishJob_bitAt, State.runStages]
  rw [State.frameStage_bitAt _ hlt, State.frameStage_bitAt _ hlt, s.demodStage_bitAt_of_lt hk,
    s'.demodStage_bitAt_of_lt hk', h]

theorem State.completeRun_wordAt_desc_congr {n w : Nat}
    (hn : n < s.demodStage.frameResult.counters.ncand.toNat) (hw : w < 8) :
    (s.complete .run).wordAt .desc (Ram.desc.base + 32 * n + 4 * w)
      = (s'.complete .run).wordAt .desc (Ram.desc.base + 32 * n + 4 * w) := by
  obtain ⟨hncand, -⟩ := s.demodStage.frameResult_counters
  have hresult := State.demodStage_frameResult_congr h
  rw [hncand] at hn
  simp only [State.complete, State.finishJob_wordAt, State.runStages]
  rw [State.frameStage_wordAt_desc _ hn hw, State.frameStage_wordAt_desc _ (hresult ▸ hn) hw, hresult]

theorem State.completeRun_byteAt_frame_congr {j : Nat}
    (hj : j < s.demodStage.frameResult.counters.nframeBytes.toNat) :
    (s.complete .run).byteAt .frame (Ram.frame.base + j) = (s'.complete .run).byteAt .frame (Ram.frame.base + j) := by
  obtain ⟨-, hnframeBytes⟩ := s.demodStage.frameResult_counters
  have hresult := State.demodStage_frameResult_congr h
  have hword : j < 4 * ((s.demodStage.frameResult.bytes.length + 3) / 4) := by omega
  simp only [State.complete, State.finishJob_byteAt, State.runStages]
  rw [State.frameStage_byteAt_frame _ hword, State.frameStage_byteAt_frame _ (hresult ▸ hword), hresult]

end

/-! ## A legal RUN -/

section
variable {s : State} (hsr : 1000 ≤ s.sampleRate) (hn : s.sampleCount ≤ s.sampleCap)
include hsr hn

/-- The frame stage of a legal RUN works on exactly the demodulated bits (41_frame_extractor.md R250). -/
theorem State.demodStage_frameResult : s.demodStage.frameResult = extractFrames s.demodBits := by
  rw [State.frameResult, State.demodStage_inputBits, State.demodStage_bitLength hsr hn, List.take_length]

theorem State.demodBits_length_le : s.demodBits.length ≤ 2 ^ 22 := by
  have hle : s.demodBits.length ≤ s.sampleCount := s.samples_length ▸ demodulate_length_le hsr _ _
  have hcap := s.sampleCap_le
  omega

/-- Bit RAM after a RUN, in the words written. -/
theorem State.completeRun_bitAt {k : Nat} (hk : k < 32 * ((s.demodBits.length + 31) / 32)) :
    (s.complete .run).bitAt k = s.demodBits.getD k false := by
  have hfits := State.demodBits_length_le hsr hn
  rw [State.complete, State.finishJob_bitAt]
  exact (s.demodStage.frameStage_bitAt (by omega)).trans (s.demodStage_bitAt hk)

/-- Descriptor RAM after a RUN. -/
theorem State.completeRun_wordAt_desc {n w : Nat} (hlt : n < (extractFrames s.demodBits).descs.length) (hw : w < 8) :
    (s.complete .run).wordAt .desc (Ram.desc.base + 32 * n + 4 * w)
      = (((extractFrames s.demodBits).descs.map Descriptor.words).getD n []).getD w 0#32 := by
  rw [← State.demodStage_frameResult hsr hn] at hlt ⊢
  rw [State.complete, State.finishJob_wordAt]
  exact s.demodStage.frameStage_wordAt_desc hlt hw

/-- Frame RAM after a RUN, in the words written. -/
theorem State.completeRun_byteAt_frame {j : Nat}
    (hlt : j < 4 * (((extractFrames s.demodBits).bytes.length + 3) / 4)) :
    (s.complete .run).byteAt .frame (Ram.frame.base + j) = (extractFrames s.demodBits).bytes.getD j 0#8 := by
  rw [← State.demodStage_frameResult hsr hn] at hlt ⊢
  rw [State.complete, State.finishJob_byteAt]
  exact s.demodStage.frameStage_byteAt_frame hlt

/-- Outside the three ranges written every byte is as before. -/
theorem State.completeRun_byteAt_outside {a : Nat}
    (hbits : a < Ram.bit.base ∨ Ram.bit.base + 4 * ((s.demodBits.length + 31) / 32) ≤ a)
    (hframe : a < Ram.frame.base ∨
      Ram.frame.base + 4 * (((extractFrames s.demodBits).bytes.length + 3) / 4) ≤ a)
    (hdesc : a < Ram.desc.base ∨ Ram.desc.base + 32 * (extractFrames s.demodBits).descs.length ≤ a) (m : Ram) :
    (s.complete .run).byteAt m a = s.byteAt m a := by
  rw [← State.demodStage_frameResult hsr hn] at hframe hdesc
  rw [State.complete, State.finishJob_byteAt]
  exact (s.demodStage.frameStage_byteAt_outside hframe hdesc m).trans (s.demodStage_byteAt_outside hbits m)

/-- The three ranges end below sample RAM (20_memory.md R101, R103). -/
theorem State.completeRun_byteAt_sample {a : Nat} (ha : Ram.sample.holds a = true) :
    (s.complete .run).byteAt .sample a = s.byteAt .sample a := by
  have hbase : Ram.sample.base ≤ a := by simpa using (Bool.and_eq_true_iff.1 ha).1
  have hfits := State.demodBits_length_le hsr hn
  have hdescs := extractFrames_descs_le s.demodBits
  have hbytes := extractFrames_bytes_le s.demodBits
  simp only [Ram.base] at hbase
  have hend : Ram.bit.base + 4 * ((s.demodBits.length + 31) / 32) ≤ a ∧
      Ram.frame.base + 4 * (((extractFrames s.demodBits).bytes.length + 3) / 4) ≤ a ∧
      Ram.desc.base + 32 * (extractFrames s.demodBits).descs.length ≤ a := by
    simp only [Ram.base]
    omega
  obtain ⟨hbit, hframe, hdesc⟩ := hend
  exact State.completeRun_byteAt_outside hsr hn (.inr hbit) (.inr hframe) (.inr hdesc) .sample

end

end Sys2Proof.Machine

open Sys2Proof Sys2Proof.Machine

/-- Settles O10: the frame stage reads back the very bits that the demodulator stage stored, and the ranges written do
not meet. -/
theorem completedRunReportsTheFramesOfItsSamples : Obligations.CompletedRunReportsTheFramesOfItsSamples := by
  intro s hturn hjob hsr hn
  have hsr' : 1000 ≤ s.takeEvent.sampleRate := hsr
  have hn' : s.takeEvent.sampleCount ≤ s.takeEvent.sampleCap := hn
  refine ⟨s.takeEvent.complete .run, s.takeEvent.demodBits, extractFrames s.takeEvent.demodBits, rfl, rfl,
    step_of_runningJob hturn hjob, State.demodStage_bitLength hsr' hn',
    fun k hk => State.completeRun_bitAt hsr' hn' (by omega), fun k hge hlt => ?fill,
    fun k hk w hw => State.completeRun_wordAt_desc hsr' hn' hk hw,
    fun j hj => State.completeRun_byteAt_frame hsr' hn' (by omega), fun j hge hlt => ?fillBytes,
    congrArg FrameResult.counters (State.demodStage_frameResult hsr' hn'), fun m a hbits hframe hdesc => ?outside,
    fun a ha => ?samples, s.takeEvent.complete_eq .run⟩
  case fill => exact (State.completeRun_bitAt hsr' hn' hlt).trans (List.getD_eq_default _ _ hge)
  case fillBytes => exact (State.completeRun_byteAt_frame hsr' hn' hlt).trans (List.getD_eq_default _ _ hge)
  case outside => rw [State.completeRun_byteAt_outside hsr' hn' hbits hframe hdesc, State.takeEvent_byteAt]
  case samples => rw [State.completeRun_byteAt_sample hsr' hn' ha, State.takeEvent_byteAt]

/-- Settles O49: the same demodulated bits, so the same frames, whose number the counters hold. -/
theorem runDependsOnlyOnItsInputs : Obligations.RunDependsOnlyOnItsInputs := by
  intro s s' hjob hjob' hturn hturn' hsr hthresh hnsamp hsamples
  have hbits : s.takeEvent.demodBits = s'.takeEvent.demodBits := State.demodBits_congr hsr hthresh hnsamp hsamples
  have hresult := State.demodStage_frameResult_congr hbits
  have hlen := State.demodStage_bitLength_congr hbits
  refine ⟨s.takeEvent.complete .run, s'.takeEvent.complete .run, step_of_runningJob hturn hjob,
    step_of_runningJob hturn' hjob', BitVec.eq_of_toNat_eq hlen, congrArg FrameResult.counters hresult,
    fun k hk => ?bits, fun n hn w hw => ?words, fun j hj => ?bytes⟩
  case bits => exact State.completeRun_bitAt_congr hbits hk
  case words => exact State.completeRun_wordAt_desc_congr hbits hn hw
  case bytes => exact State.completeRun_byteAt_frame_congr hbits hj

end
